-- ==== Sys2Proof/Word.lean ====
section
/-! DEFINITION. The word types of the GF256-TSS core (00_scope R4). -/

namespace Sys2Proof

/-- A byte: an unsigned integer 0 to 255, read as a field element by the field operations (00_scope R4,
42_gf_scalar R100). -/
abbrev Byte := BitVec 8

/-- A 32-bit command word, CSR value or response datum (30_encoding R60, 20_memory R43). -/
abbrev Word := BitVec 32

end Sys2Proof
end

