-- ==== Sys2Proof/Syntax.lean ====
section
/-! DEFINITION. The sixteen commands of 30_encoding R67, one constructor per row of spec/opcode_table.json. -/

namespace Sys2Proof

/-- A command with its operand fields, each of the width its format gives it (30_encoding R62 to R66, R68). -/
inductive Instr where
  /-- `NOP` (40_control R81). -/
  | nop
  /-- `CLR` (40_control R82). -/
  | clr
  /-- `CSRR csr` (40_control R83). -/
  | csrr (csr : Byte)
  /-- `CSRW csr, val` (40_control R84). -/
  | csrw (csr : Byte) (val : Byte)
  /-- `LD addr` (41_loadstore R91). -/
  | ld (addr : BitVec 10)
  /-- `ST addr, data` (41_loadstore R92). -/
  | st (addr : BitVec 10) (data : Byte)
  /-- `LDSEQ` (41_loadstore R93). -/
  | ldseq
  /-- `GFADD a, b` (42_gf_scalar R111). -/
  | gfadd (a : Byte) (b : Byte)
  /-- `GFMUL a, b` (42_gf_scalar R112). -/
  | gfmul (a : Byte) (b : Byte)
  /-- `GFDIV a, b`: a is the numerator (42_gf_scalar R113). -/
  | gfdiv (a : Byte) (b : Byte)
  /-- `GFINV a` (42_gf_scalar R114). -/
  | gfinv (a : Byte)
  /-- `EVAL x` (43_polyeval R123). -/
  | eval (x : Byte)
  /-- `EVALN` (43_polyeval R124). -/
  | evaln
  /-- `LPREP` (44_lagrange R133). -/
  | lprep
  /-- `LDOT` (44_lagrange R134). -/
  | ldot
  /-- `LAGR` (44_lagrange R135). -/
  | lagr
  deriving DecidableEq, Repr

/-- The thirteen pseudo-instructions of 30_encoding R74. -/
inductive Pseudo where
  | setn (n : Byte)
  | setm (m : Byte)
  | ldx (i v : Byte)
  | ldv (i v : Byte)
  | ldc (i v : Byte)
  | rdx (i : Byte)
  | rdv (i : Byte)
  | rdc (i : Byte)
  | rdw (i : Byte)
  | rdres
  | rdstat
  | irqen
  | irqdis
  deriving DecidableEq, Repr

end Sys2Proof
end

