-- ==== Sys2Proof/WellFormed.lean ====
section
/-! DEFINITION. Which commands have a word: the field widths of `Instr` leave one check, the CSR number of format C
(30_encoding R66). -/

namespace Sys2Proof

/-- Only the CSR numbers 0x00 to 0x07 are assigned (10_state R16, R25; 30_encoding R66). -/
abbrev CsrAssigned (csr : Byte) : Prop := csr.toNat < 8

/-- A command that some legal word encodes (30_encoding R67, R70 (c)). -/
def WellFormed : Instr → Bool
  | .csrr csr => decide (CsrAssigned csr)
  | .csrw csr _ => decide (CsrAssigned csr)
  | .nop | .clr | .ld _ | .st _ _ | .ldseq | .gfadd _ _ | .gfmul _ _ | .gfdiv _ _ | .gfinv _ | .eval _ | .evaln
  | .lprep | .ldot | .lagr => true

end Sys2Proof
end

