-- ==== Sys2Proof/Decode.lean ====
section
/-! DEFINITION. The decoder (30_encoding R60 to R72), the encoder, and the byte order of a word on a byte channel
(20_memory R43). -/

namespace Sys2Proof

/-! ## Fields of a command word -/

/-- `w[31:24]` (30_encoding R61). -/
def wordOp (w : Word) : Byte := w.extractLsb' 24 8

/-- `w[15:8]`: `a` of format AB and `csr` of format C (30_encoding R64, R66). -/
def wordMid (w : Word) : Byte := w.extractLsb' 8 8

/-- `w[7:0]`: `a` of format A, `b` of format AB, `data` of format M, `val` of format C (30_encoding R63 to R66). -/
def wordLow (w : Word) : Byte := w.extractLsb' 0 8

/-- `w[17:8]`: `addr` of format M (30_encoding R65). -/
def wordAddr (w : Word) : BitVec 10 := w.extractLsb' 8 10

/-! ## The opcode map -/

/-- One row of the opcode map of 30_encoding R67, with the command its fields give. -/
structure OpcodeRow where
  mnemonic : String
  pattern : Word
  mask : Word
  build : Word → Instr

/-- A word is the command of a row if and only if its masked bits are the row's (30_encoding R67). -/
def rowAccepts (r : OpcodeRow) (w : Word) : Bool := (w &&& r.mask) == r.pattern

/-- The control, CSR and local-memory rows of 30_encoding R67. -/
def controlRows : List OpcodeRow :=
  [ ⟨"NOP", 0x00000000#32, 0xFFFFFFFF#32, fun _ => .nop⟩,
    ⟨"CLR", 0x01000000#32, 0xFFFFFFFF#32, fun _ => .clr⟩,
    ⟨"CSRR", 0x10000000#32, 0xFFFFF8FF#32, fun w => .csrr (wordMid w)⟩,
    ⟨"CSRW", 0x11000000#32, 0xFFFFF800#32, fun w => .csrw (wordMid w) (wordLow w)⟩,
    ⟨"LD", 0x20000000#32, 0xFFFC00FF#32, fun w => .ld (wordAddr w)⟩,
    ⟨"ST", 0x21000000#32, 0xFFFC0000#32, fun w => .st (wordAddr w) (wordLow w)⟩,
    ⟨"LDSEQ", 0x22000000#32, 0xFFFFFFFF#32, fun _ => .ldseq⟩ ]

/-- The field, evaluation and interpolation rows of 30_encoding R67. -/
def fieldRows : List OpcodeRow :=
  [ ⟨"GFADD", 0x30000000#32, 0xFFFF0000#32, fun w => .gfadd (wordMid w) (wordLow w)⟩,
    ⟨"GFMUL", 0x31000000#32, 0xFFFF0000#32, fun w => .gfmul (wordMid w) (wordLow w)⟩,
    ⟨"GFDIV", 0x32000000#32, 0xFFFF0000#32, fun w => .gfdiv (wordMid w) (wordLow w)⟩,
    ⟨"GFINV", 0x33000000#32, 0xFFFFFF00#32, fun w => .gfinv (wordLow w)⟩,
    ⟨"EVAL", 0x40000000#32, 0xFFFFFF00#32, fun w => .eval (wordLow w)⟩,
    ⟨"EVALN", 0x41000000#32, 0xFFFFFFFF#32, fun _ => .evaln⟩,
    ⟨"LPREP", 0x50000000#32, 0xFFFFFFFF#32, fun _ => .lprep⟩,
    ⟨"LDOT", 0x51000000#32, 0xFFFFFFFF#32, fun _ => .ldot⟩,
    ⟨"LAGR", 0x52000000#32, 0xFFFFFFFF#32, fun _ => .lagr⟩ ]

/-- The sixteen rows in the order of 30_encoding R67. -/
def opcodeRows : List OpcodeRow := controlRows ++ fieldRows

/-! ## Decoding -/

/-- Why a word or a byte sequence is no command: the three cases of 30_encoding R70, and a byte channel that has
not delivered a whole word (30_encoding R60). The names are the model's; the hardware reports ILLEGAL_CMD for the
first three alike. Log entry 9. -/
inductive Illegal where
  /-- `op` is none of the sixteen assigned values (30_encoding R70 (a)). -/
  | unassignedOpcode
  /-- A must-be-zero bit of the format is 1 (30_encoding R70 (b)). -/
  | nonzeroReservedBits
  /-- CSRR or CSRW with `csr` of 0x08 or more and every other must-be-zero bit zero (30_encoding R70 (c)). -/
  | unassignedCsr
  /-- Fewer than four bytes: not a word (30_encoding R60). -/
  | shortWord
  deriving DecidableEq, Repr

/-- The name of the reason a word that matches no row is illegal (30_encoding R70). -/
def illegalReason (w : Word) : Illegal :=
  if opcodeRows.all (fun r => wordOp r.pattern != wordOp w) then .unassignedOpcode
  else if (w &&& 0xFFFF00FF#32) == 0x10000000#32 || (w &&& 0xFFFF0000#32) == 0x11000000#32 then .unassignedCsr
  else .nonzeroReservedBits

/-- Decoding, total on every word and independent of any state (30_encoding R69). -/
def decode (w : Word) : Except Illegal Instr :=
  match opcodeRows.find? (fun r => rowAccepts r w) with
  | some r => .ok (r.build w)
  | none => .error (illegalReason w)

/-! ## A word on a byte channel (20_memory R43) -/

/-- The four bytes of a word, most significant first (20_memory R43). -/
def wordBytes (w : Word) : List Byte :=
  [w.extractLsb' 24 8, w.extractLsb' 16 8, w.extractLsb' 8 8, w.extractLsb' 0 8]

/-- The word of four bytes, the first the most significant (20_memory R43). -/
def wordOfBytes (b3 b2 b1 b0 : Byte) : Word :=
  b3.setWidth 32 <<< 24 ||| b2.setWidth 32 <<< 16 ||| b1.setWidth 32 <<< 8 ||| b0.setWidth 32

/-- Decodes the first command of a byte channel and answers the rest of the bytes (20_memory R43, 30_encoding R60). -/
def decodeBytes : List Byte → Except Illegal (Instr × List Byte)
  | b3 :: b2 :: b1 :: b0 :: rest =>
    match decode (wordOfBytes b3 b2 b1 b0) with
    | .ok i => .ok (i, rest)
    | .error e => .error e
  | _ => .error .shortWord

/-- The command word the host's numbering gives: bit 0 is the word's least significant bit, and the bits from
`nbits` on are 0. -/
def tableWord (nbits w : Nat) : Word := BitVec.ofNat 32 (w % 2 ^ nbits)

/-- The command the decoder reads from a table word laid out on the byte channel. -/
def decodeTableWord (nbits w : Nat) : Option Instr :=
  match decodeBytes (wordBytes (tableWord nbits w)) with
  | .ok (i, _) => some i
  | .error _ => none

/-! ## Encoding -/

/-- Format N: `op << 24` (30_encoding R62). -/
def formatN (op : Byte) : Word := op.setWidth 32 <<< 24

/-- Format A: `op << 24 | a` (30_encoding R63). -/
def formatA (op a : Byte) : Word := op.setWidth 32 <<< 24 ||| a.setWidth 32

/-- Format AB: `op << 24 | a << 8 | b` (30_encoding R64). -/
def formatAB (op a b : Byte) : Word := op.setWidth 32 <<< 24 ||| a.setWidth 32 <<< 8 ||| b.setWidth 32

/-- Format M: `op << 24 | addr << 8 | data` (30_encoding R65). -/
def formatM (op : Byte) (addr : BitVec 10) (data : Byte) : Word :=
  op.setWidth 32 <<< 24 ||| addr.setWidth 32 <<< 8 ||| data.setWidth 32

/-- Format C: `op << 24 | csr << 8 | val` (30_encoding R66). -/
def formatC (op csr val : Byte) : Word := op.setWidth 32 <<< 24 ||| csr.setWidth 32 <<< 8 ||| val.setWidth 32

/-- The word of a command (30_encoding R62 to R67). For a well-formed command it is the only word that decodes to it. -/
def encode : Instr → Word
  | .nop => formatN 0x00#8
  | .clr => formatN 0x01#8
  | .csrr csr => formatC 0x10#8 csr 0x00#8
  | .csrw csr val => formatC 0x11#8 csr val
  | .ld addr => formatM 0x20#8 addr 0x00#8
  | .st addr data => formatM 0x21#8 addr data
  | .ldseq => formatN 0x22#8
  | .gfadd a b => formatAB 0x30#8 a b
  | .gfmul a b => formatAB 0x31#8 a b
  | .gfdiv a b => formatAB 0x32#8 a b
  | .gfinv a => formatA 0x33#8 a
  | .eval x => formatA 0x40#8 x
  | .evaln => formatN 0x41#8
  | .lprep => formatN 0x50#8
  | .ldot => formatN 0x51#8
  | .lagr => formatN 0x52#8

/-! ## Pseudo-instructions (30_encoding R74) -/

/-- The local address of entry `i` of the array in bank `bank` (20_memory R41). -/
def arrayAddress (bank : BitVec 2) (i : Byte) : BitVec 10 := bank ++ i

/-- The one command a pseudo-instruction stands for (30_encoding R74). -/
def expand : Pseudo → Instr
  | .setn n => .csrw 0x03#8 n
  | .setm m => .csrw 0x04#8 m
  | .ldx i v => .st (arrayAddress 0#2 i) v
  | .ldv i v => .st (arrayAddress 1#2 i) v
  | .ldc i v => .st (arrayAddress 2#2 i) v
  | .rdx i => .ld (arrayAddress 0#2 i)
  | .rdv i => .ld (arrayAddress 1#2 i)
  | .rdc i => .ld (arrayAddress 2#2 i)
  | .rdw i => .ld (arrayAddress 3#2 i)
  | .rdres => .csrr 0x05#8
  | .rdstat => .csrr 0x01#8
  | .irqen => .csrw 0x02#8 0x01#8
  | .irqdis => .csrw 0x02#8 0x00#8

end Sys2Proof
end

