-- ==== Sys2Proof/Config.lean ====
section
/-! DEFINITION. What an implementation fixes: the constants of 00_scope R3, and the two open parameters of the
host procedures (92_eei_decisions D32). The block itself has no open parameter. -/

namespace Sys2Proof

/-- The identification register (10_state R20). -/
def Config.idValue : Word := 0x4746011B#32

/-- The nine coefficients of the reduction polynomial x^8+x^4+x^3+x+1 (42_gf_scalar R100). -/
def Config.reductionPolynomial : BitVec 9 := 0x11B#9

/-- The generator a table-driven realisation uses (42_gf_scalar R105, 92_eei_decisions D8); no product depends on it. -/
def Config.generator : Byte := 0x03#8

/-- The number of locations of the local space (20_memory R40). -/
def Config.localSize : Nat := 1024

/-- The hash function of hash_id 1, 20 bytes (45_host_protocol R153). A parameter of the host procedures the spec
leaves open: it has no body, so a claim holds whatever the function is. Log entry 11. -/
opaque Config.hashA : List Byte → Vector Byte 20

/-- The hash function of hash_id 2, 32 bytes (45_host_protocol R153). Open in the same way. Log entry 11. -/
opaque Config.hashB : List Byte → Vector Byte 32

end Sys2Proof
end

