-- ==== Sys2Proof/Machine/State.lean ====
section
/-! DEFINITION. The state of the core (10_state R10 to R33), its ports, its reset value, and the reasons a step can
stop. -/

namespace Sys2Proof.Machine

/-- The local space: (address, byte) pairs in rising address order, no byte 0x00 listed. An unlisted address reads
0x00, the reset value 10_state R32 gives every entry. -/
abbrev Memory := List Host.Cell

/-- The four banks of the local space (20_memory R41), which are the four arrays of 10_state R26 to R29. -/
inductive Bank where
  /-- `XS`, the points (10_state R26). -/
  | xs
  /-- `VS`, the values (10_state R27). -/
  | vs
  /-- `CS`, the coefficients (10_state R28). -/
  | cs
  /-- `LW`, the weights (10_state R29). -/
  | lw
  deriving DecidableEq, Repr

/-- The eight causes of a recorded fault (60_exceptions R181). -/
inductive FaultCode where
  | illegalCmd
  | access
  | divZero
  | badParam
  | zeroPoint
  | insufficient
  | dupPoint
  | stale
  deriving DecidableEq, Repr

/-- The response to one command: the value of ERR after it, and the data (00_scope R6, 40_control R80, R87). -/
structure Response where
  err : Byte
  data : Word
  deriving DecidableEq, Repr

/-- A move of the host: it presents a command word, or pulses reset (60_exceptions R203, 70_reset R210). -/
inductive HostMove where
  | command (w : Word)
  | reset
  deriving DecidableEq, Repr

/-- The state of one core (10_state, the tuple at its head and R33) and of its two ports (70_reset R218, R226). -/
structure State where
  /-- `RES`, the result register (10_state R10, R11). -/
  res : Byte
  /-- `NPTS`, the number of points in use (10_state R19). -/
  npts : Byte
  /-- `M`, the number of coefficients, or the threshold (10_state R21). -/
  m : Byte
  /-- `ERR`, the sticky fault code (10_state R14). -/
  err : Byte
  /-- `ECMD`, the word of the command that faulted (10_state R23). -/
  ecmd : Word
  /-- `EIDX`, the detail of the fault, hi in bits 15:8 and lo in bits 7:0 (10_state R24). -/
  eidx : BitVec 16
  /-- `WVALID`, whether LW holds the weights of the points in use (10_state R13). -/
  wvalid : Bool
  /-- `IE`, the interrupt enable (10_state R15). -/
  ie : Bool
  /-- The arrays `XS`, `VS`, `CS`, `LW` as the local space 0x000 to 0x3FF (10_state R26 to R29, 20_memory R41). -/
  mem : Memory
  /-- The command port: the moves the host has still to make, first the next one (10_state R12, 70_reset R226).
  DESIGN CHOICE, log entry 1. -/
  pending : List HostMove
  /-- The response port: the responses given so far, oldest first (70_reset R218, R226). DESIGN CHOICE, log entry 2. -/
  responses : List Response
  deriving DecidableEq, Repr

/-- Reasons a step could stop with a fault: none. Every word in every state has exactly one next state (40_control
R80), and the block's own fault is a next state that records it (60_exceptions R184, R204). -/
inductive Fault where
  deriving DecidableEq, Repr

/-- Reasons a step could have no meaning. -/
inductive Refusal where
  /-- An instruction of `exec` that has no meaning yet: raised by `exec`'s refused arms only. Safe: nothing is proved
  of it. No arm raises it now. -/
  | notModelled (mnemonic : String)
  deriving DecidableEq, Repr

/-- The state right after reset (10_state R32, 70_reset R210, R211): every register and every array entry zero,
running, nothing presented and nothing answered. -/
def State.reset : State :=
  { res := 0x00#8
    npts := 0x00#8
    m := 0x00#8
    err := 0x00#8
    ecmd := 0x00000000#32
    eidx := 0x0000#16
    wvalid := false
    ie := false
    mem := []
    pending := []
    responses := [] }

end Sys2Proof.Machine
end

