-- ==== Sys2Proof/Machine/Ops.lean ====
section
/-! DEFINITION. The named operations over the local space, the registers and the ports; taking a fault and leaving
the halted state (20_memory R42, 40_control R80, R82, 60_exceptions R184 to R190). -/

namespace Sys2Proof.Machine

/-- What a command does: always a next state (40_control R80). -/
abbrev Result := Host.Outcome State Fault Refusal

/-! ## The local space -/

/-- The byte at an address: 0x00 where nothing else is listed (10_state R32, 41_loadstore R91). -/
def Memory.read : Memory → Nat → Byte
  | [], _ => 0x00#8
  | (k, v) :: rest, a => if k = a then v else Memory.read rest a

/-- The local space with one byte replaced, in canonical form: 0x00 is held by listing nothing. -/
def Memory.write : Memory → Nat → Byte → Memory
  | [], a, v => if v = 0x00#8 then [] else [(a, v)]
  | (k, u) :: rest, a, v =>
    if a < k then (if v = 0x00#8 then (k, u) :: rest else (a, v) :: (k, u) :: rest)
    else if a = k then (if v = 0x00#8 then rest else (a, v) :: rest)
    else (k, u) :: Memory.write rest a v

/-- The local space with `f k` written at `base + k` for every `k < n`: the array loops of LDSEQ, EVALN, LPREP and
LAGR, whose order is not observable (20_memory R47, 43_polyeval R125). -/
def Memory.fill (mem : Memory) (base : Nat) (f : Nat → Byte) : Nat → Memory
  | 0 => mem
  | n + 1 => Memory.write (Memory.fill mem base f n) (base + n) (f n)

/-- The canonical form: addresses strictly rising, every address in the local space (20_memory R40), and no entry
equal to what an unlisted address reads as. -/
abbrev Memory.wf (mem : Memory) : Prop :=
  mem.Pairwise (fun c d => c.1 < d.1) ∧ ∀ c ∈ mem, c.1 < Config.localSize ∧ c.2 ≠ 0x00#8

/-- The first address of a bank (20_memory R41). -/
def bankBase : Bank → Nat
  | .xs => 0x000
  | .vs => 0x100
  | .cs => 0x200
  | .lw => 0x300

/-- Entry `k` of an array (10_state R26 to R29). -/
def State.entry (s : State) (b : Bank) (k : Nat) : Byte := Memory.read s.mem (bankBase b + k)

/-- `XS[k]`. -/
def State.xs (s : State) (k : Nat) : Byte := s.entry .xs k

/-- `VS[k]`. -/
def State.vs (s : State) (k : Nat) : Byte := s.entry .vs k

/-- `CS[k]`. -/
def State.cs (s : State) (k : Nat) : Byte := s.entry .cs k

/-- `LW[k]`. -/
def State.lw (s : State) (k : Nat) : Byte := s.entry .lw k

/-- `b[k] <- v`. -/
def State.setEntry (s : State) (b : Bank) (k : Nat) (v : Byte) : State :=
  { s with mem := Memory.write s.mem (bankBase b + k) v }

/-- `b[k] <- f k` for every `k < n`, all computed from the state before. -/
def State.fillBank (s : State) (b : Bank) (f : Nat → Byte) (n : Nat) : State :=
  { s with mem := Memory.fill s.mem (bankBase b) f n }

/-! ## The registers -/

/-- `RES <- v` (10_state R11). -/
def State.setRes (s : State) (v : Byte) : State := { s with res := v }

/-- `NPTS <- v` (10_state R19). -/
def State.setNpts (s : State) (v : Byte) : State := { s with npts := v }

/-- `M <- v` (10_state R21). -/
def State.setM (s : State) (v : Byte) : State := { s with m := v }

/-- `IE <- v` (10_state R15). -/
def State.setIe (s : State) (v : Bool) : State := { s with ie := v }

/-- `WVALID <- v` (10_state R13). -/
def State.setWvalid (s : State) (v : Bool) : State := { s with wvalid := v }

/-- `ERR <- code; ECMD <- w; EIDX <- detail` (60_exceptions R184). -/
def State.record (s : State) (code : Byte) (w : Word) (detail : BitVec 16) : State :=
  { s with err := code, ecmd := w, eidx := detail }

/-! ## The ports -/

/-- Appends a response (70_reset R218: in command order, one per command). -/
def State.answer (s : State) (r : Response) : State := { s with responses := s.responses ++ [r] }

/-- Replaces the host's moves still to come. -/
def State.withPending (s : State) (moves : List HostMove) : State := { s with pending := moves }

/-- `respond(e, d)` where e is the value of ERR after the command (40_control R80): the end of every command. -/
def respond (d : Word) (s : State) : Result := .next (s.answer ⟨s.err, d⟩)

/-! ## Faults and the halted state -/

/-- The value of ERR and of the response's error field (60_exceptions R181). -/
def faultCode : FaultCode → Byte
  | .illegalCmd => 0x01#8
  | .access => 0x02#8
  | .divZero => 0x03#8
  | .badParam => 0x04#8
  | .zeroPoint => 0x05#8
  | .insufficient => 0x06#8
  | .dupPoint => 0x07#8
  | .stale => 0x08#8

/-- Taking a fault, `raise Fault(code, hi, lo)` while the word `w` executes: the record is written, the block is
halted, and the response is (code, 0) (60_exceptions R184). -/
def raiseFault (w : Word) (c : FaultCode) (hi lo : Byte) (s : State) : Result :=
  respond 0x00000000#32 (s.record (faultCode c) w (hi ++ lo))

/-- The block is halted exactly when ERR is not 0x00 (60_exceptions R187). -/
def State.halted (s : State) : Bool := s.err != 0x00#8

/-- The frame of every command but NOP, CSRR and CLR: while halted it is refused with (ERR, 0) and no state changes
(40_control R80, 60_exceptions R188). -/
def whenRunning (s : State) (run : Result) : Result :=
  if s.halted then respond 0x00000000#32 s else run

/-- Leaving the halted state, and the wipe: every register but IE, and every array entry, becomes zero (40_control
R82, 60_exceptions R190, 70_reset R217). -/
def State.wipe (s : State) : State :=
  { s with
    res := 0x00#8, npts := 0x00#8, m := 0x00#8,
    err := 0x00#8, ecmd := 0x00000000#32, eidx := 0x0000#16,
    wvalid := false, mem := [] }

/-- An illegal word: ILLEGAL_CMD while running, refused while halted (30_encoding R70, 40_control R80). -/
def execIllegal (w : Word) (s : State) : Result :=
  whenRunning s (raiseFault w .illegalCmd 0x00#8 0x00#8 s)

/-- A reset pulse: the reset state; the host's later moves and the responses it has taken are the host's, and stay
(70_reset R210, R212). Log entry 4. -/
def pulseReset (s : State) : State := { State.reset with pending := s.pending, responses := s.responses }

/-- The interrupt line `irq` (60_exceptions R193). -/
def State.irq (s : State) : Bool := s.ie && s.halted

end Sys2Proof.Machine
end

