-- ==== Sys2Proof/Machine/Operands.lean ====
section
/-! DEFINITION. The operand forms: local addresses (20_memory R41, R42), CSR numbers (10_state R16), and bytes widened
to 32 bits (30_encoding R68). -/

namespace Sys2Proof.Machine

/-- `zext_32` of a byte (00_scope R4, 30_encoding R68). -/
def zext32 (v : Byte) : Word := v.setWidth 32

/-- `addr[9:8]`, the bank of a local address (20_memory R41). -/
def addrBank (addr : BitVec 10) : Bank :=
  match (addr.extractLsb' 8 2).toNat with
  | 0 => .xs
  | 1 => .vs
  | 2 => .cs
  | _ => .lw

/-- `addr[7:0]`, the index within the array (20_memory R41). -/
def addrIndex (addr : BitVec 10) : Byte := addr.extractLsb' 0 8

/-- `MemRead(addr, 1)` (20_memory R42). -/
def memRead (addr : BitVec 10) (s : State) : Byte := s.entry (addrBank addr) (addrIndex addr).toNat

/-- An index as the byte EIDX holds (60_exceptions R181); the engines' indices are below 255 (20_memory R54). -/
def indexByte (k : Nat) : Byte := BitVec.ofNat 8 k

/-- `RES <- v` and the response `(0x00, zext_32(v))` (40_control R87). -/
def deliver (v : Byte) (s : State) : Result := respond (zext32 v) (s.setRes v)

end Sys2Proof.Machine
end

