-- ==== Sys2Proof/Machine/Flags.lean ====
section
/-! DEFINITION. The flags WVALID, ERR and IE as software reads and writes them: STATUS, CTRL and the other CSR views
(10_state R13 to R24), and the write that clears WVALID (20_memory R42). -/

namespace Sys2Proof.Machine

/-- A flag as a byte. -/
def flagByte (b : Bool) : Byte := if b then 0x01#8 else 0x00#8

/-- `STATUS`: `zext_32({WVALID, ERR})` (10_state R17). -/
def statusValue (s : State) : Word := (flagByte s.wvalid ++ s.err : BitVec 16).setWidth 32

/-- `CTRL`: `zext_32(IE)` (10_state R18). -/
def ctrlValue (s : State) : Word := zext32 (flagByte s.ie)

/-- The value of a CSR, none for an unassigned number (40_control R83, 10_state R25). -/
def csrValue (csr : Byte) (s : State) : Option Word :=
  match csr.toNat with
  | 0 => some Config.idValue
  | 1 => some (statusValue s)
  | 2 => some (ctrlValue s)
  | 3 => some (zext32 s.npts)
  | 4 => some (zext32 s.m)
  | 5 => some (zext32 s.res)
  | 6 => some s.ecmd
  | 7 => some (s.eidx.setWidth 32)
  | _ => none

/-- A change of the points or the counts makes the weights stale (10_state R13). -/
def State.clearWvalid (s : State) : State := s.setWvalid false

/-- `MemWrite(addr, 1, v)`: a write to XS also clears WVALID (20_memory R42). Bank 3 is never written: ST faults first
(41_loadstore R92). -/
def memWrite (addr : BitVec 10) (v : Byte) (s : State) : State :=
  match addrBank addr with
  | .xs => (s.setEntry .xs (addrIndex addr).toNat v).clearWvalid
  | .vs => s.setEntry .vs (addrIndex addr).toNat v
  | .cs => s.setEntry .cs (addrIndex addr).toNat v
  | .lw => s

end Sys2Proof.Machine
end

