-- ==== Sys2Proof/Machine/Control.lean ====
section
/-! DEFINITION. The control commands NOP, CLR, CSRR and CSRW (40_control R81 to R84). -/

namespace Sys2Proof.Machine

/-- `NOP` (40_control R81). -/
def execNop (s : State) : Result := respond 0x00000000#32 s

/-- `CLR` (40_control R82). -/
def execClr (s : State) : Result := respond 0x00000000#32 s.wipe

/-- `CSRR csr` (40_control R83). An unassigned number is an illegal command (10_state R25); the decoder never gives
one. Log entry 8. -/
def execCsrr (csr : Byte) (s : State) : Result :=
  match csrValue csr s with
  | some v => respond v s
  | none => execIllegal (encode (.csrr csr)) s

/-- `CSRW csr, val` (40_control R84). An unassigned number is an illegal command (10_state R25); the decoder never
gives one. Log entry 8. -/
def execCsrw (csr val : Byte) (s : State) : Result :=
  whenRunning s <|
    match csr.toNat with
    | 2 => respond 0x00000000#32 (s.setIe (val.getLsbD 0))
    | 3 => respond 0x00000000#32 (s.setNpts val).clearWvalid
    | 4 => respond 0x00000000#32 (s.setM val).clearWvalid
    | 0 | 1 | 5 | 6 | 7 => raiseFault (encode (.csrw csr val)) .access 0x00#8 csr s
    | _ => execIllegal (encode (.csrw csr val)) s

end Sys2Proof.Machine
end

