-- ==== Sys2Proof/Machine/Field.lean ====
section
/-! DEFINITION. The field GF(2^8) (42_gf_scalar R100 to R109): its operations, and the other realisations the spec
allows, over the tables of R108 and R110. -/

namespace Sys2Proof.Machine

/-- Multiplication by x (42_gf_scalar R102). -/
def mulx (a : Byte) : Byte := (a <<< 1) ^^^ (if a.getLsbD 7 then 0x1B#8 else 0x00#8)

/-- The loop of 42_gf_scalar R103 from bit `i` on: `p` is a times x^i, `r` the sum so far. -/
def gmulLoop (b : Byte) : Nat → Nat → Byte → Byte → Byte
  | 0, _, _, r => r
  | n + 1, i, p, r => gmulLoop b n (i + 1) (mulx p) (if b.getLsbD i then r ^^^ p else r)

/-- Field multiplication (42_gf_scalar R103). -/
def gmul (a b : Byte) : Byte := gmulLoop b 8 0 a 0x00#8

/-- The `n`-fold field product of `a` (42_gf_scalar R105, 43_polyeval R120). -/
def gpow (a : Byte) : Nat → Byte
  | 0 => 0x01#8
  | n + 1 => gmul (gpow a n) a

/-- Squares `p` and multiplies the square into `r`, `n` times. -/
def squareLoop : Nat → Byte → Byte → Byte
  | 0, _, r => r
  | n + 1, p, r => squareLoop n (gmul p p) (gmul r (gmul p p))

/-- The inverse as a^254 = a^2 · a^4 · ... · a^128 (42_gf_scalar R108). DESIGN CHOICE, log entry 7: `ginv 0x00` does
not exist in the spec and no command computes it. -/
def ginv (a : Byte) : Byte := squareLoop 7 a 0x01#8

/-- Field division for a nonzero divisor (42_gf_scalar R109). -/
def gdiv (a b : Byte) : Byte := gmul a (ginv b)

/-! ## Other realisations (42_gf_scalar R103, R105 to R110) -/

/-- The carry-less product of two bytes, 15 bits (42_gf_scalar R103). -/
def carrylessProduct (a b : Byte) : BitVec 15 :=
  (List.range 8).foldl (fun c i => if b.getLsbD i then c ^^^ (a.setWidth 15 <<< i) else c) 0#15

/-- One reduction step at bit `i` (42_gf_scalar R103). -/
def reduceAt (c : BitVec 15) (i : Nat) : BitVec 15 :=
  if c.getLsbD i then c ^^^ (Config.reductionPolynomial.setWidth 15 <<< (i - 8)) else c

/-- The product by carry-less multiplication and reduction from bit 14 down to bit 8 (42_gf_scalar R103). -/
def carrylessMul (a b : Byte) : Byte :=
  ([14, 13, 12, 11, 10, 9, 8].foldl reduceAt (carrylessProduct a b)).setWidth 8

/-- `EXP` of 42_gf_scalar R110; its last slot, EXP[255], is never used (90_conflicts C2), rows 0x to 3x. -/
def expTableA : List Nat :=
  [ 0x01, 0x03, 0x05, 0x0F, 0x11, 0x33, 0x55, 0xFF, 0x1A, 0x2E, 0x72, 0x96, 0xA1, 0xF8, 0x13, 0x35,
    0x5F, 0xE1, 0x38, 0x48, 0xD8, 0x73, 0x95, 0xA4, 0xF7, 0x02, 0x06, 0x0A, 0x1E, 0x22, 0x66, 0xAA,
    0xE5, 0x34, 0x5C, 0xE4, 0x37, 0x59, 0xEB, 0x26, 0x6A, 0xBE, 0xD9, 0x70, 0x90, 0xAB, 0xE6, 0x31,
    0x53, 0xF5, 0x04, 0x0C, 0x14, 0x3C, 0x44, 0xCC, 0x4F, 0xD1, 0x68, 0xB8, 0xD3, 0x6E, 0xB2, 0xCD ]

/-- `EXP` of 42_gf_scalar R110; its last slot, EXP[255], is never used (90_conflicts C2), rows 4x to 7x. -/
def expTableB : List Nat :=
  [ 0x4C, 0xD4, 0x67, 0xA9, 0xE0, 0x3B, 0x4D, 0xD7, 0x62, 0xA6, 0xF1, 0x08, 0x18, 0x28, 0x78, 0x88,
    0x83, 0x9E, 0xB9, 0xD0, 0x6B, 0xBD, 0xDC, 0x7F, 0x81, 0x98, 0xB3, 0xCE, 0x49, 0xDB, 0x76, 0x9A,
    0xB5, 0xC4, 0x57, 0xF9, 0x10, 0x30, 0x50, 0xF0, 0x0B, 0x1D, 0x27, 0x69, 0xBB, 0xD6, 0x61, 0xA3,
    0xFE, 0x19, 0x2B, 0x7D, 0x87, 0x92, 0xAD, 0xEC, 0x2F, 0x71, 0x93, 0xAE, 0xE9, 0x20, 0x60, 0xA0 ]

/-- `EXP` of 42_gf_scalar R110; its last slot, EXP[255], is never used (90_conflicts C2), rows 8x to Bx. -/
def expTableC : List Nat :=
  [ 0xFB, 0x16, 0x3A, 0x4E, 0xD2, 0x6D, 0xB7, 0xC2, 0x5D, 0xE7, 0x32, 0x56, 0xFA, 0x15, 0x3F, 0x41,
    0xC3, 0x5E, 0xE2, 0x3D, 0x47, 0xC9, 0x40, 0xC0, 0x5B, 0xED, 0x2C, 0x74, 0x9C, 0xBF, 0xDA, 0x75,
    0x9F, 0xBA, 0xD5, 0x64, 0xAC, 0xEF, 0x2A, 0x7E, 0x82, 0x9D, 0xBC, 0xDF, 0x7A, 0x8E, 0x89, 0x80,
    0x9B, 0xB6, 0xC1, 0x58, 0xE8, 0x23, 0x65, 0xAF, 0xEA, 0x25, 0x6F, 0xB1, 0xC8, 0x43, 0xC5, 0x54 ]

/-- `EXP` of 42_gf_scalar R110; its last slot, EXP[255], is never used (90_conflicts C2), rows Cx to Fx. -/
def expTableD : List Nat :=
  [ 0xFC, 0x1F, 0x21, 0x63, 0xA5, 0xF4, 0x07, 0x09, 0x1B, 0x2D, 0x77, 0x99, 0xB0, 0xCB, 0x46, 0xCA,
    0x45, 0xCF, 0x4A, 0xDE, 0x79, 0x8B, 0x86, 0x91, 0xA8, 0xE3, 0x3E, 0x42, 0xC6, 0x51, 0xF3, 0x0E,
    0x12, 0x36, 0x5A, 0xEE, 0x29, 0x7B, 0x8D, 0x8C, 0x8F, 0x8A, 0x85, 0x94, 0xA7, 0xF2, 0x0D, 0x17,
    0x39, 0x4B, 0xDD, 0x7C, 0x84, 0x97, 0xA2, 0xFD, 0x1C, 0x24, 0x6C, 0xB4, 0xC7, 0x52, 0xF6, 0x01 ]

/-- `EXP` of 42_gf_scalar R110; its last slot, EXP[255], is never used (90_conflicts C2). -/
def expTable : List Nat := expTableA ++ expTableB ++ expTableC ++ expTableD

/-- `LOG[1]` to `LOG[255]` of 42_gf_scalar R110; LOG[0] has no value (90_conflicts C2), rows 0x to 3x. -/
def logTableA : List Nat :=
  [ 0x00, 0x19, 0x01, 0x32, 0x02, 0x1A, 0xC6, 0x4B, 0xC7, 0x1B, 0x68, 0x33, 0xEE, 0xDF, 0x03,
    0x64, 0x04, 0xE0, 0x0E, 0x34, 0x8D, 0x81, 0xEF, 0x4C, 0x71, 0x08, 0xC8, 0xF8, 0x69, 0x1C, 0xC1,
    0x7D, 0xC2, 0x1D, 0xB5, 0xF9, 0xB9, 0x27, 0x6A, 0x4D, 0xE4, 0xA6, 0x72, 0x9A, 0xC9, 0x09, 0x78,
    0x65, 0x2F, 0x8A, 0x05, 0x21, 0x0F, 0xE1, 0x24, 0x12, 0xF0, 0x82, 0x45, 0x35, 0x93, 0xDA, 0x8E ]

/-- `LOG[1]` to `LOG[255]` of 42_gf_scalar R110; LOG[0] has no value (90_conflicts C2), rows 4x to 7x. -/
def logTableB : List Nat :=
  [ 0x96, 0x8F, 0xDB, 0xBD, 0x36, 0xD0, 0xCE, 0x94, 0x13, 0x5C, 0xD2, 0xF1, 0x40, 0x46, 0x83, 0x38,
    0x66, 0xDD, 0xFD, 0x30, 0xBF, 0x06, 0x8B, 0x62, 0xB3, 0x25, 0xE2, 0x98, 0x22, 0x88, 0x91, 0x10,
    0x7E, 0x6E, 0x48, 0xC3, 0xA3, 0xB6, 0x1E, 0x42, 0x3A, 0x6B, 0x28, 0x54, 0xFA, 0x85, 0x3D, 0xBA,
    0x2B, 0x79, 0x0A, 0x15, 0x9B, 0x9F, 0x5E, 0xCA, 0x4E, 0xD4, 0xAC, 0xE5, 0xF3, 0x73, 0xA7, 0x57 ]

/-- `LOG[1]` to `LOG[255]` of 42_gf_scalar R110; LOG[0] has no value (90_conflicts C2), rows 8x to Bx. -/
def logTableC : List Nat :=
  [ 0xAF, 0x58, 0xA8, 0x50, 0xF4, 0xEA, 0xD6, 0x74, 0x4F, 0xAE, 0xE9, 0xD5, 0xE7, 0xE6, 0xAD, 0xE8,
    0x2C, 0xD7, 0x75, 0x7A, 0xEB, 0x16, 0x0B, 0xF5, 0x59, 0xCB, 0x5F, 0xB0, 0x9C, 0xA9, 0x51, 0xA0,
    0x7F, 0x0C, 0xF6, 0x6F, 0x17, 0xC4, 0x49, 0xEC, 0xD8, 0x43, 0x1F, 0x2D, 0xA4, 0x76, 0x7B, 0xB7,
    0xCC, 0xBB, 0x3E, 0x5A, 0xFB, 0x60, 0xB1, 0x86, 0x3B, 0x52, 0xA1, 0x6C, 0xAA, 0x55, 0x29, 0x9D ]

/-- `LOG[1]` to `LOG[255]` of 42_gf_scalar R110; LOG[0] has no value (90_conflicts C2), rows Cx to Fx. -/
def logTableD : List Nat :=
  [ 0x97, 0xB2, 0x87, 0x90, 0x61, 0xBE, 0xDC, 0xFC, 0xBC, 0x95, 0xCF, 0xCD, 0x37, 0x3F, 0x5B, 0xD1,
    0x53, 0x39, 0x84, 0x3C, 0x41, 0xA2, 0x6D, 0x47, 0x14, 0x2A, 0x9E, 0x5D, 0x56, 0xF2, 0xD3, 0xAB,
    0x44, 0x11, 0x92, 0xD9, 0x23, 0x20, 0x2E, 0x89, 0xB4, 0x7C, 0xB8, 0x26, 0x77, 0x99, 0xE3, 0xA5,
    0x67, 0x4A, 0xED, 0xDE, 0xC5, 0x31, 0xFE, 0x18, 0x0D, 0x63, 0x8C, 0x80, 0xC0, 0xF7, 0x70, 0x07 ]

/-- `LOG[1]` to `LOG[255]` of 42_gf_scalar R110; LOG[0] has no value (90_conflicts C2). -/
def logTable : List Nat := logTableA ++ logTableB ++ logTableC ++ logTableD

/-- `INV[1]` to `INV[255]` of 42_gf_scalar R108; INV[0] has no value, rows 0x to 3x. -/
def invTableA : List Nat :=
  [ 0x01, 0x8D, 0xF6, 0xCB, 0x52, 0x7B, 0xD1, 0xE8, 0x4F, 0x29, 0xC0, 0xB0, 0xE1, 0xE5, 0xC7,
    0x74, 0xB4, 0xAA, 0x4B, 0x99, 0x2B, 0x60, 0x5F, 0x58, 0x3F, 0xFD, 0xCC, 0xFF, 0x40, 0xEE, 0xB2,
    0x3A, 0x6E, 0x5A, 0xF1, 0x55, 0x4D, 0xA8, 0xC9, 0xC1, 0x0A, 0x98, 0x15, 0x30, 0x44, 0xA2, 0xC2,
    0x2C, 0x45, 0x92, 0x6C, 0xF3, 0x39, 0x66, 0x42, 0xF2, 0x35, 0x20, 0x6F, 0x77, 0xBB, 0x59, 0x19 ]

/-- `INV[1]` to `INV[255]` of 42_gf_scalar R108; INV[0] has no value, rows 4x to 7x. -/
def invTableB : List Nat :=
  [ 0x1D, 0xFE, 0x37, 0x67, 0x2D, 0x31, 0xF5, 0x69, 0xA7, 0x64, 0xAB, 0x13, 0x54, 0x25, 0xE9, 0x09,
    0xED, 0x5C, 0x05, 0xCA, 0x4C, 0x24, 0x87, 0xBF, 0x18, 0x3E, 0x22, 0xF0, 0x51, 0xEC, 0x61, 0x17,
    0x16, 0x5E, 0xAF, 0xD3, 0x49, 0xA6, 0x36, 0x43, 0xF4, 0x47, 0x91, 0xDF, 0x33, 0x93, 0x21, 0x3B,
    0x79, 0xB7, 0x97, 0x85, 0x10, 0xB5, 0xBA, 0x3C, 0xB6, 0x70, 0xD0, 0x06, 0xA1, 0xFA, 0x81, 0x82 ]

/-- `INV[1]` to `INV[255]` of 42_gf_scalar R108; INV[0] has no value, rows 8x to Bx. -/
def invTableC : List Nat :=
  [ 0x83, 0x7E, 0x7F, 0x80, 0x96, 0x73, 0xBE, 0x56, 0x9B, 0x9E, 0x95, 0xD9, 0xF7, 0x02, 0xB9, 0xA4,
    0xDE, 0x6A, 0x32, 0x6D, 0xD8, 0x8A, 0x84, 0x72, 0x2A, 0x14, 0x9F, 0x88, 0xF9, 0xDC, 0x89, 0x9A,
    0xFB, 0x7C, 0x2E, 0xC3, 0x8F, 0xB8, 0x65, 0x48, 0x26, 0xC8, 0x12, 0x4A, 0xCE, 0xE7, 0xD2, 0x62,
    0x0C, 0xE0, 0x1F, 0xEF, 0x11, 0x75, 0x78, 0x71, 0xA5, 0x8E, 0x76, 0x3D, 0xBD, 0xBC, 0x86, 0x57 ]

/-- `INV[1]` to `INV[255]` of 42_gf_scalar R108; INV[0] has no value, rows Cx to Fx. -/
def invTableD : List Nat :=
  [ 0x0B, 0x28, 0x2F, 0xA3, 0xDA, 0xD4, 0xE4, 0x0F, 0xA9, 0x27, 0x53, 0x04, 0x1B, 0xFC, 0xAC, 0xE6,
    0x7A, 0x07, 0xAE, 0x63, 0xC5, 0xDB, 0xE2, 0xEA, 0x94, 0x8B, 0xC4, 0xD5, 0x9D, 0xF8, 0x90, 0x6B,
    0xB1, 0x0D, 0xD6, 0xEB, 0xC6, 0x0E, 0xCF, 0xAD, 0x08, 0x4E, 0xD7, 0xE3, 0x5D, 0x50, 0x1E, 0xB3,
    0x5B, 0x23, 0x38, 0x34, 0x68, 0x46, 0x03, 0x8C, 0xDD, 0x9C, 0x7D, 0xA0, 0xCD, 0x1A, 0x41, 0x1C ]

/-- `INV[1]` to `INV[255]` of 42_gf_scalar R108; INV[0] has no value. -/
def invTable : List Nat := invTableA ++ invTableB ++ invTableC ++ invTableD

/-- A lookup in EXP. -/
def expEntry (i : Nat) : Option Byte := expTable[i]?.map (BitVec.ofNat 8)

/-- A lookup in LOG, none for 0x00 (42_gf_scalar R105: never looked up). -/
def logEntry (x : Byte) : Option Nat := if x = 0x00#8 then none else logTable[x.toNat - 1]?

/-- A lookup in INV, none for 0x00 (42_gf_scalar R108). -/
def invEntry (x : Byte) : Option Byte := if x = 0x00#8 then none else invTable[x.toNat - 1]?.map (BitVec.ofNat 8)

/-- The table multiply: 0x00 where an operand is 0x00, else EXP of the sum of the logarithms mod 255
(42_gf_scalar R106). -/
def tableMul (a b : Byte) : Option Byte :=
  match logEntry a, logEntry b with
  | some i, some j => expEntry ((i + j) % 255)
  | _, _ => some 0x00#8

/-- The table divide, for a nonzero numerator and denominator (42_gf_scalar R107). -/
def tableDiv (a b : Byte) : Option Byte :=
  match logEntry a, logEntry b with
  | some i, some j => expEntry ((255 + i - j) % 255)
  | _, _ => none

/-- The table inverse (42_gf_scalar R108). -/
def tableInv (a : Byte) : Option Byte :=
  match logEntry a with
  | some i => expEntry ((255 - i) % 255)
  | none => none

end Sys2Proof.Machine
end

