-- ==== Sys2Proof/Machine/Poly.lean ====
section
/-! DEFINITION. Polynomial evaluation (43_polyeval R120 to R126): the functions, and EVAL and EVALN. -/

namespace Sys2Proof.Machine

/-- The loop of 43_polyeval R121: `n` iterations from `k` on, `p` the running power, `sum` the sum so far. -/
def pevalLoop (c : Nat → Byte) (x : Byte) : Nat → Nat → Byte → Byte → Byte
  | 0, _, _, sum => sum
  | n + 1, k, p, sum => pevalLoop c x n (k + 1) (gmul p x) (sum ^^^ gmul p (c k))

/-- `peval(m, x)` over the coefficients `c` (43_polyeval R121). -/
def peval (c : Nat → Byte) (m : Nat) (x : Byte) : Byte := pevalLoop c x (m - 1) 1 x (c 0)

/-- Horner's rule over the `k` lower coefficients (43_polyeval R122). -/
def hornerLoop (c : Nat → Byte) (x : Byte) : Nat → Byte → Byte
  | 0, acc => acc
  | k + 1, acc => hornerLoop c x k (gmul acc x ^^^ c k)

/-- `horner(m, x)` (43_polyeval R122). -/
def horner (c : Nat → Byte) (m : Nat) (x : Byte) : Byte := hornerLoop c x (m - 1) (c (m - 1))

/-- The smallest index below `n` whose point is 0x00 (43_polyeval R124, 44_lagrange R132). -/
def firstZeroPoint (s : State) (n : Nat) : Option Nat := (List.range n).find? (fun k => s.xs k == 0x00#8)

/-- `EVAL x` (43_polyeval R123). -/
def execEval (x : Byte) (s : State) : Result :=
  whenRunning s <|
    if s.m = 0x00#8 then raiseFault (encode (.eval x)) .badParam s.npts s.m s
    else if x = 0x00#8 then raiseFault (encode (.eval x)) .zeroPoint 0x00#8 0x00#8 s
    else deliver (peval s.cs s.m.toNat x) s

/-- `EVALN` (43_polyeval R124). -/
def execEvaln (s : State) : Result :=
  whenRunning s <|
    if s.m = 0x00#8 ∨ s.npts = 0x00#8 ∨ s.npts.toNat < s.m.toNat then
      raiseFault (encode .evaln) .badParam s.npts s.m s
    else
      match firstZeroPoint s s.npts.toNat with
      | some j => raiseFault (encode .evaln) .zeroPoint (indexByte j) (indexByte j) s
      | none => respond 0x00000000#32 (s.fillBank .vs (fun j => peval s.cs s.m.toNat (s.xs j)) s.npts.toNat)

end Sys2Proof.Machine
end

