-- ==== Sys2Proof/Machine/Lagrange.lean ====
section
/-! DEFINITION. Lagrange interpolation at the origin (44_lagrange R130 to R140): the weights, the point check, and
LPREP, LDOT and LAGR. -/

namespace Sys2Proof.Machine

/-- The product of the factors gdiv(x_l, x_l ^ x_k) over l < n, l ≠ k: the weight L_k(0) of the points `x`
(44_lagrange R130, R131). -/
def weight (x : Nat → Byte) (n k : Nat) : Byte :=
  (List.range n).foldl (fun r l => if l = k then r else gmul r (gdiv (x l) (x l ^^^ x k))) 0x01#8

/-- `lw(k)` (44_lagrange R131). -/
def State.weightOf (s : State) (k : Nat) : Byte := weight s.xs s.npts.toNat k

/-- The exclusive-or of gmul(v_k, w_k) over k < n (44_lagrange R130, R134). -/
def dot (v w : Nat → Byte) (n : Nat) : Byte :=
  (List.range n).foldl (fun sum k => sum ^^^ gmul (v k) (w k)) 0x00#8

/-- The first pair k < l below `n` with equal points, k ascending and then l (44_lagrange R132). -/
def firstDuplicate (s : State) (n : Nat) : Option (Nat × Nat) :=
  (List.range n).findSome? (fun k =>
    ((List.range' (k + 1) (n - (k + 1))).find? (fun l => s.xs k == s.xs l)).map (fun l => (k, l)))

/-- `pcheck()`: the first fault of the points and counts, or none (44_lagrange R132). -/
def pcheck (s : State) : Option (FaultCode × Byte × Byte) :=
  if s.npts = 0x00#8 then some (.badParam, s.npts, s.m)
  else
    match firstZeroPoint s s.npts.toNat with
    | some k => some (.zeroPoint, indexByte k, indexByte k)
    | none =>
      if s.npts.toNat < s.m.toNat then some (.insufficient, s.npts, s.m)
      else
        match firstDuplicate s s.npts.toNat with
        | some (k, l) => some (.dupPoint, indexByte k, indexByte l)
        | none => none

/-- `LW[k] <- lw(k)` for k < NPTS, all from the points before, and `WVALID <- 1` (44_lagrange R133, R135). -/
def State.prepare (s : State) : State := (s.fillBank .lw s.weightOf s.npts.toNat).setWvalid true

/-- The interpolated value from VS and the weights in LW (44_lagrange R134). -/
def State.interpolated (s : State) : Byte := dot s.vs s.lw s.npts.toNat

/-- The common front of LPREP and LAGR: the point check, and then `run` (44_lagrange R133, R135). -/
def whenPointsGood (w : Word) (s : State) (run : Result) : Result :=
  match pcheck s with
  | some (c, hi, lo) => raiseFault w c hi lo s
  | none => run

/-- `LPREP` (44_lagrange R133). -/
def execLprep (s : State) : Result :=
  whenRunning s <| whenPointsGood (encode .lprep) s <| respond 0x00000000#32 s.prepare

/-- `LDOT` (44_lagrange R134). -/
def execLdot (s : State) : Result :=
  whenRunning s <|
    if s.wvalid then deliver s.interpolated s
    else raiseFault (encode .ldot) .stale 0x00#8 0x00#8 s

/-- `LAGR` (44_lagrange R135). -/
def execLagr (s : State) : Result :=
  whenRunning s <| whenPointsGood (encode .lagr) s <| deliver s.prepare.interpolated s.prepare

end Sys2Proof.Machine
end

