-- ==== Sys2Proof/Machine/LoadStore.lean ====
section
/-! DEFINITION. The local memory commands LD, ST and LDSEQ (41_loadstore R90 to R94). -/

namespace Sys2Proof.Machine

/-- `LD addr` (41_loadstore R91). -/
def execLd (addr : BitVec 10) (s : State) : Result :=
  whenRunning s <| respond (zext32 (memRead addr s)) s

/-- `ST addr, data` (41_loadstore R92). -/
def execSt (addr : BitVec 10) (data : Byte) (s : State) : Result :=
  whenRunning s <|
    match addrBank addr with
    | .lw => raiseFault (encode (.st addr data)) .access 0x03#8 (addrIndex addr) s
    | .xs | .vs | .cs => respond 0x00000000#32 (memWrite addr data s)

/-- `LDSEQ` (41_loadstore R93). -/
def execLdseq (s : State) : Result :=
  whenRunning s <|
    respond 0x00000000#32 (s.fillBank .xs (fun j => indexByte (j + 1)) s.npts.toNat).clearWvalid

end Sys2Proof.Machine
end

