-- ==== Sys2Proof/Machine/Scalar.lean ====
section
/-! DEFINITION. The scalar field commands GFADD, GFMUL, GFDIV and GFINV (42_gf_scalar R111 to R114). -/

namespace Sys2Proof.Machine

/-- `GFADD a, b` (42_gf_scalar R101, R111). -/
def execGfadd (a b : Byte) (s : State) : Result := whenRunning s <| deliver (a ^^^ b) s

/-- `GFMUL a, b` (42_gf_scalar R112). -/
def execGfmul (a b : Byte) (s : State) : Result := whenRunning s <| deliver (gmul a b) s

/-- `GFDIV a, b` (42_gf_scalar R113). -/
def execGfdiv (a b : Byte) (s : State) : Result :=
  whenRunning s <|
    if b = 0x00#8 then raiseFault (encode (.gfdiv a b)) .divZero 0x00#8 0x00#8 s
    else deliver (gdiv a b) s

/-- `GFINV a` (42_gf_scalar R114). -/
def execGfinv (a : Byte) (s : State) : Result :=
  whenRunning s <|
    if a = 0x00#8 then raiseFault (encode (.gfinv a)) .divZero 0x00#8 0x00#8 s
    else deliver (ginv a) s

end Sys2Proof.Machine
end

