-- ==== Sys2Proof/Machine/Dispatch.lean ====
section
/-! DEFINITION. One arm per command (40_control R80: a command is executed by its own rule). -/

namespace Sys2Proof.Machine

def exec (i : Instr) (s : State) : Host.Outcome State Fault Refusal :=
  match i with
  | .nop => Sys2Proof.Machine.execNop s
  | .clr => Sys2Proof.Machine.execClr s
  | .csrr csr => Sys2Proof.Machine.execCsrr csr s
  | .csrw csr val => Sys2Proof.Machine.execCsrw csr val s
  | .ld addr => Sys2Proof.Machine.execLd addr s
  | .st addr data => Sys2Proof.Machine.execSt addr data s
  | .ldseq => Sys2Proof.Machine.execLdseq s
  | .gfadd a b => Sys2Proof.Machine.execGfadd a b s
  | .gfmul a b => Sys2Proof.Machine.execGfmul a b s
  | .gfdiv a b => Sys2Proof.Machine.execGfdiv a b s
  | .gfinv a => Sys2Proof.Machine.execGfinv a s
  | .eval x => Sys2Proof.Machine.execEval x s
  | .evaln => Sys2Proof.Machine.execEvaln s
  | .lprep => Sys2Proof.Machine.execLprep s
  | .ldot => Sys2Proof.Machine.execLdot s
  | .lagr => Sys2Proof.Machine.execLagr s

end Sys2Proof.Machine
end

