-- ==== Sys2Proof/Machine/Step.lean ====
section
/-! DEFINITION. One step: the host's next move (40_control R80, 60_exceptions R203, 70_reset R210). -/

namespace Sys2Proof.Machine

/-- Executes one command word (40_control R80): decoding first, in every state. -/
def execWord (w : Word) (s : State) : Host.Outcome State Fault Refusal :=
  match decode w with
  | .ok i => exec i s
  | .error _ => execIllegal w s

/-- One step. The host's next move is taken from the port and made: a command word is executed, a reset pulse
resets. With no move the block waits and nothing changes (60_exceptions R203; DESIGN CHOICE, log entry 3). -/
def step (s : State) : Host.Outcome State Fault Refusal :=
  match s.pending with
  | [] => .next s
  | .command w :: rest => execWord w (s.withPending rest)
  | .reset :: rest => .next (pulseReset (s.withPending rest))

/-- `s` with the word of a table row presented as the host's next command, before any move already pending. Log entry 1
says how a program comes to run. -/
def State.withFetchWord (s : State) (nbits w : Nat) : State :=
  s.withPending (.command (tableWord nbits w) :: s.pending)

end Sys2Proof.Machine
end

