-- ==== Sys2Proof/Machine/Assembler.lean ====
section
/-! DEFINITION. The spec's assembler notation (30_encoding R73, R74): one line of text to one command. A tool beside
the block, not hardware. -/

namespace Sys2Proof.Machine

/-- Why a line is no command. -/
inductive AsmError where
  | unknownMnemonic
  | operandCount
  | badOperand
  /-- The operand does not fit its field; it is not truncated (30_encoding R73). -/
  | outOfRange
  deriving DecidableEq, Repr

/-- White space between tokens. -/
def isBlank (c : Char) : Bool := c == ' ' || c == '\t'

/-- A token without the white space around it. -/
def trim (cs : List Char) : List Char := ((cs.dropWhile isBlank).reverse.dropWhile isBlank).reverse

/-- The pieces between commas. -/
def splitCommas : List Char → List (List Char)
  | [] => [[]]
  | c :: rest =>
    if c == ',' then [] :: splitCommas rest
    else
      match splitCommas rest with
      | [] => [[c]]
      | piece :: more => (c :: piece) :: more

/-- The value of a digit, decimal or hexadecimal of either case. -/
def digitValue (c : Char) : Option Nat :=
  let n := c.toNat
  if 48 ≤ n ∧ n ≤ 57 then some (n - 48)
  else if 97 ≤ n ∧ n ≤ 102 then some (n - 87)
  else if 65 ≤ n ∧ n ≤ 70 then some (n - 55)
  else none

/-- The number of a digit string in a base, `acc` the value so far; none on a character that is no digit of it. -/
def digitsValue (base : Nat) : List Char → Nat → Option Nat
  | [], acc => some acc
  | c :: rest, acc =>
    match digitValue c with
    | some d => if d < base then digitsValue base rest (acc * base + d) else none
    | none => none

/-- A number, decimal or hexadecimal with `0x` (30_encoding R73). -/
def parseNumber : List Char → Option Nat
  | '0' :: 'x' :: c :: rest => digitsValue 16 (c :: rest) 0
  | c :: rest => digitsValue 10 (c :: rest) 0
  | [] => none

/-- A number below a bound: an operand that does not fit is rejected (30_encoding R73). -/
def boundedNumber (bound : Nat) (t : List Char) : Except AsmError Nat :=
  match parseNumber t with
  | some n => if n < bound then .ok n else .error .outOfRange
  | none => .error .badOperand

/-- A byte operand. -/
def byteOperand (t : List Char) : Except AsmError Byte := (boundedNumber 256 t).map (BitVec.ofNat 8)

/-- The index of `NAME[i]`. -/
def arrayIndex (t : List Char) : Except AsmError Byte :=
  if t.getLast? = some ']' then byteOperand (trim t.dropLast) else .error .badOperand

/-- A local address: a number up to 0x3FF, or `XS[i]`, `VS[i]`, `CS[i]`, `LW[i]` (30_encoding R73). -/
def addrOperand (t : List Char) : Except AsmError (BitVec 10) :=
  match t with
  | 'X' :: 'S' :: '[' :: rest => (arrayIndex rest).map (arrayAddress 0#2)
  | 'V' :: 'S' :: '[' :: rest => (arrayIndex rest).map (arrayAddress 1#2)
  | 'C' :: 'S' :: '[' :: rest => (arrayIndex rest).map (arrayAddress 2#2)
  | 'L' :: 'W' :: '[' :: rest => (arrayIndex rest).map (arrayAddress 3#2)
  | _ => (boundedNumber 1024 t).map (BitVec.ofNat 10)

/-- The CSR names, numbers 0 to 7 (30_encoding R73). -/
def csrNames : List String := ["ID", "STATUS", "CTRL", "NPTS", "M", "RES", "ECMD", "EIDX"]

/-- A CSR by name or by number; only 0 to 7 fit the field (30_encoding R66, R73). -/
def csrOperand (t : List Char) : Except AsmError Byte :=
  match csrNames.findIdx? (fun n => n.toList == t) with
  | some k => .ok (BitVec.ofNat 8 k)
  | none => (boundedNumber 8 t).map (BitVec.ofNat 8)

/-- A command without operands. -/
def noOperand (i : Instr) : List (List Char) → Except AsmError Instr
  | [] => .ok i
  | _ => .error .operandCount

/-- A command with one operand. -/
def oneOperand {α : Type} (p : List Char → Except AsmError α) (f : α → Instr) : List (List Char) → Except AsmError Instr
  | [t] => (p t).map f
  | _ => .error .operandCount

/-- A command with two operands, the most significant field first (30_encoding R73). -/
def twoOperands {α β : Type} (p : List Char → Except AsmError α) (q : List Char → Except AsmError β)
    (f : α → β → Instr) : List (List Char) → Except AsmError Instr
  | [t, u] =>
    match p t, q u with
    | .ok a, .ok b => .ok (f a b)
    | .error e, _ => .error e
    | _, .error e => .error e
  | _ => .error .operandCount

/-- The sixteen mnemonics with their operand lists (30_encoding R67, R73). -/
def commandLines : List (String × (List (List Char) → Except AsmError Instr)) :=
  [ ("NOP", noOperand .nop), ("CLR", noOperand .clr),
    ("CSRR", oneOperand csrOperand .csrr), ("CSRW", twoOperands csrOperand byteOperand .csrw),
    ("LD", oneOperand addrOperand .ld), ("ST", twoOperands addrOperand byteOperand .st),
    ("LDSEQ", noOperand .ldseq),
    ("GFADD", twoOperands byteOperand byteOperand .gfadd), ("GFMUL", twoOperands byteOperand byteOperand .gfmul),
    ("GFDIV", twoOperands byteOperand byteOperand .gfdiv), ("GFINV", oneOperand byteOperand .gfinv),
    ("EVAL", oneOperand byteOperand .eval), ("EVALN", noOperand .evaln),
    ("LPREP", noOperand .lprep), ("LDOT", noOperand .ldot), ("LAGR", noOperand .lagr) ]

/-- The thirteen pseudo-instructions (30_encoding R74). -/
def pseudoLines : List (String × (List (List Char) → Except AsmError Instr)) :=
  [ ("SETN", oneOperand byteOperand (fun n => expand (.setn n))),
    ("SETM", oneOperand byteOperand (fun m => expand (.setm m))),
    ("LDX", twoOperands byteOperand byteOperand (fun i v => expand (.ldx i v))),
    ("LDV", twoOperands byteOperand byteOperand (fun i v => expand (.ldv i v))),
    ("LDC", twoOperands byteOperand byteOperand (fun i v => expand (.ldc i v))),
    ("RDX", oneOperand byteOperand (fun i => expand (.rdx i))),
    ("RDV", oneOperand byteOperand (fun i => expand (.rdv i))),
    ("RDC", oneOperand byteOperand (fun i => expand (.rdc i))),
    ("RDW", oneOperand byteOperand (fun i => expand (.rdw i))),
    ("RDRES", noOperand (expand .rdres)), ("RDSTAT", noOperand (expand .rdstat)),
    ("IRQEN", noOperand (expand .irqen)), ("IRQDIS", noOperand (expand .irqdis)) ]

/-- One line: a mnemonic in capitals, then operands separated by commas; a `;` starts a comment; a line without a
command gives none (30_encoding R73). Log entry 13. -/
def assembleLine (line : List Char) : Except AsmError (Option Instr) :=
  let body := trim (line.takeWhile (fun c => c != ';'))
  let name := body.takeWhile (fun c => !isBlank c)
  let rest := trim (body.drop name.length)
  let operands := if rest.isEmpty then [] else (splitCommas rest).map trim
  if body.isEmpty then .ok none
  else
    match (commandLines ++ pseudoLines).find? (fun entry => entry.1.toList == name) with
    | some entry => (entry.2 operands).map some
    | none => .error .unknownMnemonic

end Sys2Proof.Machine
end

