-- ==== Sys2Proof/Machine/HostRecords.lean ====
section
/-! DEFINITION. The share records of the host protocol around the block (45_host_protocol R151, R152, R171, R172,
R176), their validation (R163) and the host's error kinds (R168). Host software, not hardware. -/

namespace Sys2Proof.Machine

/-- The kinds of a host operation's failure: the four of 45_host_protocol R168, and the two failures it puts outside
them. -/
inductive ErrorKind where
  /-- Precondition/Encoding error. -/
  | precondition
  /-- Decoding/Format error. -/
  | format
  /-- Integrity error. -/
  | integrity
  /-- State error. -/
  | state
  /-- The random source failed: fatal (45_host_protocol R154, R161). -/
  | randomSource
  /-- A defect of the host's driver: a failed call (45_host_protocol R168, its closing paragraph). -/
  | driverDefect
  deriving DecidableEq, Repr

/-- How a host operation fails: one name for every condition of 45_host_protocol R168. Log entry 12. -/
inductive HostError where
  /-- `M == 0` on split. -/
  | thresholdZero
  /-- `N == 0` on split. -/
  | shareCountZero
  /-- `M > N` on split. -/
  | thresholdAboveCount
  /-- A secret of more than 65535 bytes (45_host_protocol R155). -/
  | secretTooLong
  /-- BAD_PARAM from EVAL or EVALN during split. -/
  | badParameters
  /-- Malformed hex input. -/
  | malformedHex
  /-- A header shorter than 20 bytes. -/
  | truncatedHeader
  /-- An unknown `hash_id`. -/
  | unknownHashId
  /-- An inconsistent length field. -/
  | inconsistentLength
  /-- Mismatched headers across shares. -/
  | mismatchedHeaders
  /-- Differing share sizes. -/
  | differingSizes
  /-- A zero-valued `share_id`; ZERO_POINT from LPREP or LAGR. -/
  | zeroShareId
  /-- Insufficient shares: fewer than the declared threshold (45_host_protocol R173); INSUFFICIENT from LPREP or LAGR. -/
  | insufficientShares
  /-- Duplicate `share_id` values; DUP_POINT from LPREP or LAGR. -/
  | duplicateShareId
  /-- BAD_PARAM from LPREP or LAGR during reconstruct: no shares. -/
  | noShares
  /-- The digest does not match after interpolation. -/
  | digestMismatch
  /-- An operation on an uninitialized or empty share record. -/
  | emptyRecord
  /-- reconstruct of an empty collection (91_not_in_source N14). -/
  | emptyCollection
  /-- The random source failed (45_host_protocol R161). -/
  | randomSourceFailed
  /-- A fault of the block that corresponds to no condition of the source. -/
  | driverDefect (code : Byte)
  /-- The block gave no response: it always gives one (40_control R80), so no call ends this way. -/
  | noResponse
  deriving DecidableEq, Repr

/-- The kind of a failure, the left column of the table of 45_host_protocol R168. -/
def HostError.kind : HostError → ErrorKind
  | .thresholdZero | .shareCountZero | .thresholdAboveCount | .secretTooLong | .badParameters => .precondition
  | .malformedHex | .truncatedHeader | .unknownHashId | .inconsistentLength | .mismatchedHeaders | .differingSizes
  | .zeroShareId | .insufficientShares | .duplicateShareId | .noShares => .format
  | .digestMismatch => .integrity
  | .emptyRecord | .emptyCollection => .state
  | .randomSourceFailed => .randomSource
  | .driverDefect _ | .noResponse => .driverDefect

/-- The 20-byte header of a share record (45_host_protocol R151). -/
structure Header where
  identifier : Vector Byte 16
  hashId : Byte
  threshold : Byte
  secretLen : BitVec 16
  deriving DecidableEq, Repr

/-- A share record: header, share_id and value bytes (45_host_protocol R151). -/
structure ShareRecord where
  header : Header
  shareId : Byte
  value : List Byte
  deriving DecidableEq, Repr

/-- The fixed size of a header (45_host_protocol R151). -/
def headerSize : Nat := 20

/-- The output length of a hash, none for an unknown hash_id (45_host_protocol R151, R163). -/
def digestLength (hashId : Byte) : Option Nat :=
  match hashId.toNat with
  | 1 => some 20
  | 2 => some 32
  | _ => none

/-- The digest of a hash_id, none for an unknown one (45_host_protocol R153, R169). -/
def digestOf (hashId : Byte) (bytes : List Byte) : Option (List Byte) :=
  match hashId.toNat with
  | 1 => some (Config.hashA bytes).toList
  | 2 => some (Config.hashB bytes).toList
  | _ => none

/-- The bytes of a header, secret_len big-endian (45_host_protocol R151). -/
def headerBytes (h : Header) : List Byte :=
  h.identifier.toList ++ [h.hashId, h.threshold, h.secretLen.extractLsb' 8 8, h.secretLen.extractLsb' 0 8]

/-- The bytes of a share record (45_host_protocol R151). -/
def recordBytes (r : ShareRecord) : List Byte := headerBytes r.header ++ r.shareId :: r.value

/-- The header at the front of a byte string, if it has the 20 bytes (45_host_protocol R151). -/
def parseHeader (bytes : List Byte) : Option Header :=
  if h : (bytes.take 16).length = 16 then
    match bytes.drop 16 with
    | hashId :: threshold :: hi :: lo :: _ =>
      some { identifier := ⟨(bytes.take 16).toArray, by simpa using h⟩
             hashId := hashId, threshold := threshold, secretLen := hi ++ lo }
    | _ => none
  else none

/-- The record of a byte string that holds at least a header and a share_id (45_host_protocol R151, R163). -/
def parseRecord (bytes : List Byte) : Option ShareRecord :=
  match parseHeader bytes, bytes.drop headerSize with
  | some h, x :: value => some { header := h, shareId := x, value := value }
  | _, _ => none

/-- The total length a header declares, none for an unknown hash_id (45_host_protocol R151, R163 check 6). -/
def declaredLength (h : Header) : Option Nat :=
  (digestLength h.hashId).map (fun d => headerSize + 1 + h.secretLen.toNat + d)

/-- Check 6 on a length: an unknown hash_id, or a length other than the declared one (45_host_protocol R163). -/
def lengthError (h : Header) (length : Nat) : Option HostError :=
  match declaredLength h with
  | none => some .unknownHashId
  | some n => if n = length then none else some .inconsistentLength

/-- Check 2 on one record: the share_id is there and is zero (45_host_protocol R163). -/
def shareIdIsZero (bytes : List Byte) : Bool := bytes[headerSize]? == some 0x00#8

/-- `share_id() -> u8`; a State error on an empty record (45_host_protocol R171, R168). -/
def recordShareId (bytes : List Byte) : Except HostError Byte :=
  if bytes.isEmpty then .error .emptyRecord
  else
    match bytes[headerSize]? with
    | some x => .ok x
    | none => .error (if bytes.length < headerSize then .truncatedHeader else .inconsistentLength)

/-- The checks a single record can be given (45_host_protocol R163 checks 2, 3 and 6, the length of the header first:
90_conflicts C5). A record of 20 bytes has no share_id and fails check 6. -/
def recordChecks (bytes : List Byte) : Except HostError ShareRecord :=
  match parseHeader bytes with
  | none => .error .truncatedHeader
  | some h =>
    if shareIdIsZero bytes then .error .zeroShareId
    else
      match lengthError h bytes.length, parseRecord bytes with
      | some e, _ => .error e
      | none, some r => .ok r
      | none, none => .error .inconsistentLength

/-! ## Hex transport (45_host_protocol R176) -/

/-- The lowercase digit of a value below 16 (92_eei_decisions D29). -/
def hexDigit (n : Nat) : Char :=
  ['0', '1', '2', '3', '4', '5', '6', '7', '8', '9', 'a', 'b', 'c', 'd', 'e', 'f'].getD n '0'

/-- The value of a hexadecimal digit of either case. -/
def hexValue (c : Char) : Option Nat :=
  let n := c.toNat
  if 48 ≤ n ∧ n ≤ 57 then some (n - 48)
  else if 97 ≤ n ∧ n ≤ 102 then some (n - 87)
  else if 65 ≤ n ∧ n ≤ 70 then some (n - 55)
  else none

/-- Encoding of a byte string, lowercase (45_host_protocol R176). -/
def toHex (bytes : List Byte) : List Char :=
  bytes.flatMap (fun b => [hexDigit (b.toNat / 16), hexDigit (b.toNat % 16)])

/-- Decoding, either case; none where the text is malformed (45_host_protocol R176). -/
def fromHex : List Char → Option (List Byte)
  | [] => some []
  | [_] => none
  | c :: d :: rest =>
    match hexValue c, hexValue d, fromHex rest with
    | some hi, some lo, some bytes => some (BitVec.ofNat 8 (16 * hi + lo) :: bytes)
    | _, _, _ => none

/-- `ShareRecord::to_hex()`; a State error on an empty record (45_host_protocol R171, R168). -/
def recordToHex (bytes : List Byte) : Except HostError (List Char) :=
  if bytes.isEmpty then .error .emptyRecord else .ok (toHex bytes)

/-- `ShareRecord::from_hex`, which validates the record (45_host_protocol R171, R176). Log entry 12. -/
def recordFromHex (text : List Char) : Except HostError ShareRecord :=
  match fromHex text with
  | some bytes => recordChecks bytes
  | none => .error .malformedHex

/-- `bytes_equal`: it looks at every byte whatever the earlier ones were (45_host_protocol R172). -/
def bytesEqual (a b : List Byte) : Bool :=
  a.length == b.length && (List.zipWith (fun x y => x ^^^ y) a b).foldl (fun d x => d ||| x) 0x00#8 == 0x00#8

/-! ## Validation before reconstruct (45_host_protocol R163, R164) -/

/-- The host's own checks, in the order 45_host_protocol R163 lists them with the length of the header before the
share_id (90_conflicts C5), and the count before the block is loaded (R164): more than 255 records without a zero
share_id hold a duplicate. Check 7 is otherwise the block's. Log entry 12. -/
def validateShares (shares : List (List Byte)) : Except HostError (Header × List ShareRecord) :=
  match shares with
  | [] => .error .emptyCollection
  | first :: _ =>
    if shares.any List.isEmpty then .error .emptyRecord
    else if shares.any (fun b => b.length != first.length) then .error .differingSizes
    else
      match parseHeader first with
      | none => .error .truncatedHeader
      | some h =>
        if shares.any shareIdIsZero then .error .zeroShareId
        else if shares.any (fun b => b.take headerSize != first.take headerSize) then .error .mismatchedHeaders
        else if shares.length < h.threshold.toNat then .error .insufficientShares
        else
          match lengthError h first.length, shares.mapM parseRecord with
          | some e, _ => .error e
          | none, none => .error .inconsistentLength
          | none, some records => if 255 < shares.length then .error .duplicateShareId else .ok (h, records)

end Sys2Proof.Machine
end

