-- ==== Sys2Proof/Machine/HostCalls.lean ====
section
/-! DEFINITION. Split and reconstruct as the host runs them on the block (45_host_protocol R155 to R170): the command
sequences, the stop at the first fault, and the closing CLR. Host software, not hardware. -/

namespace Sys2Proof.Machine

/-- A finished call: its result, the block after it, and the random bytes not used. -/
structure HostRun (α : Type) where
  result : Except HostError α
  block : State
  draws : List Byte

/-- One command and its response (70_reset R218). -/
def transact (i : Instr) (s : State) : Except HostError Response × State :=
  match step (s.withPending (.command (encode i) :: s.pending)) with
  | .next t =>
    match t.responses.getLast? with
    | some r => (.ok r, t)
    | none => (.error .noResponse, t)
  | .fault f => nomatch f
  | .refused _ => (.error .noResponse, s)

/-- Commands one after another, up to the first whose response error is not 0x00 (70_reset R216); `failure` says which
error a fault code means to the host (45_host_protocol R168). Answers the response data. DESIGN CHOICE, log entry 16:
the code in a refusal is named like one raised in this call, so on a block that is halted when the call begins the
recorded code of an earlier call names the failure. -/
def send (failure : Byte → HostError) : List Instr → State → Except HostError (List Word) × State
  | [], s => (.ok [], s)
  | i :: rest, s =>
    match transact i s with
    | (.error e, t) => (.error e, t)
    | (.ok r, t) =>
      if r.err = 0x00#8 then
        match send failure rest t with
        | (.ok ds, u) => (.ok (r.data :: ds), u)
        | (.error e, u) => (.error e, u)
      else (.error (failure r.err), t)

/-- What a fault code means during split (45_host_protocol R168, the right-hand column). -/
def splitFailure (code : Byte) : HostError :=
  if code = faultCode .badParam then .badParameters else .driverDefect code

/-- What a fault code means during reconstruct (45_host_protocol R168, the right-hand column). -/
def reconstructFailure (code : Byte) : HostError :=
  if code = faultCode .zeroPoint then .zeroShareId
  else if code = faultCode .insufficient then .insufficientShares
  else if code = faultCode .dupPoint then .duplicateShareId
  else if code = faultCode .badParam then .noShares
  else .driverDefect code

/-- The first precondition of split that does not hold (45_host_protocol R155, R168). -/
def splitPrecondition (m n : Byte) (secret : List Byte) : Option HostError :=
  if m = 0x00#8 then some .thresholdZero
  else if n = 0x00#8 then some .shareCountZero
  else if n.toNat < m.toNat then some .thresholdAboveCount
  else if 65535 < secret.length then some .secretTooLong
  else none

/-- Every call ends with CLR, whatever its result (45_host_protocol R170). -/
def closeCall (s : State) : State := (transact .clr s).2

/-! ## Split -/

/-- Steps 1 and 2 on the block (45_host_protocol R157). -/
def splitSetup (m n : Byte) : List Instr := [expand (.setn n), expand (.setm m), .ldseq]

/-- One byte position: the constant term, the drawn coefficients, EVALN, and a load per share (45_host_protocol R158). -/
def splitByteCommands (n : Byte) (secretByte : Byte) (coefficients : List Byte) : List Instr :=
  ((secretByte :: coefficients).zipIdx.map (fun (v, k) => expand (.ldc (indexByte k) v)))
    ++ .evaln :: (List.range n.toNat).map (fun j => expand (.rdv (indexByte j)))

/-- The loop over the byte positions: M-1 fresh draws for each (45_host_protocol R158, R159). Answers the N values of
every position. A source with too few bytes has failed (R161). -/
def splitLoop (m n : Byte) : List Byte → List Byte → State → HostRun (List (List Byte))
  | [], draws, s => ⟨.ok [], s, draws⟩
  | b :: rest, draws, s =>
    if draws.length < m.toNat - 1 then ⟨.error .randomSourceFailed, s, draws⟩
    else
      match send splitFailure (splitByteCommands n b (draws.take (m.toNat - 1))) s with
      | (.error e, t) => ⟨.error e, t, draws.drop (m.toNat - 1)⟩
      | (.ok ds, t) =>
        match splitLoop m n rest (draws.drop (m.toNat - 1)) t with
        | ⟨.error e, u, left⟩ => ⟨.error e, u, left⟩
        | ⟨.ok vs, u, left⟩ => ⟨.ok ((ds.drop (m.toNat + 1)).map (fun d => d.setWidth 8) :: vs), u, left⟩

/-- The N records of the values of every position (45_host_protocol R157, R160). -/
def splitRecords (m n : Byte) (identifier : Vector Byte 16) (secretLen : Nat) (values : List (List Byte)) :
    List ShareRecord :=
  (List.range n.toNat).map (fun j =>
    { header := { identifier := identifier, hashId := 0x02#8, threshold := m, secretLen := BitVec.ofNat 16 secretLen }
      shareId := indexByte (j + 1)
      value := values.map (fun v => v.getD j 0x00#8) })

/-- `split(M, N, secret, identifier, rng)` on the block `s`, the random source being the list `draws`
(45_host_protocol R150, R155 to R161). Log entries 11, 12, 16. -/
def hostSplit (m n : Byte) (secret : List Byte) (identifier : Vector Byte 16) (draws : List Byte) (s : State) :
    HostRun (List ShareRecord) :=
  match splitPrecondition m n secret with
  | some e => ⟨.error e, closeCall s, draws⟩
  | none =>
    match send splitFailure (splitSetup m n) s with
    | (.error e, t) => ⟨.error e, closeCall t, draws⟩
    | (.ok _, t) =>
      match splitLoop m n (secret ++ (Config.hashB secret).toList) draws t with
      | ⟨.error e, u, left⟩ => ⟨.error e, closeCall u, left⟩
      | ⟨.ok values, u, left⟩ => ⟨.ok (splitRecords m n identifier secret.length values), closeCall u, left⟩

/-! ## Reconstruct -/

/-- Loading the counts and the points, and the weights (45_host_protocol R164, R165). -/
def reconstructSetup (threshold : Byte) (ids : List Byte) : List Instr :=
  [expand (.setn (indexByte ids.length)), expand (.setm threshold)]
    ++ ids.zipIdx.map (fun (x, k) => expand (.ldx (indexByte k) x)) ++ [.lprep]

/-- One byte position: the values of the shares, and LDOT (45_host_protocol R165). -/
def reconstructByteCommands (values : List Byte) : List Instr :=
  values.zipIdx.map (fun (v, k) => expand (.ldv (indexByte k) v)) ++ [.ldot]

/-- The loop over the byte positions; the byte is the low byte of LDOT's response (45_host_protocol R165). -/
def reconstructLoop : List (List Byte) → State → Except HostError (List Byte) × State
  | [], s => (.ok [], s)
  | values :: rest, s =>
    match send reconstructFailure (reconstructByteCommands values) s with
    | (.error e, t) => (.error e, t)
    | (.ok ds, t) =>
      match reconstructLoop rest t with
      | (.error e, u) => (.error e, u)
      | (.ok bytes, u) => (.ok ((ds.getLastD 0#32).setWidth 8 :: bytes), u)

/-- The value bytes of every position, one per share. -/
def valueColumns (records : List ShareRecord) (len : Nat) : List (List Byte) :=
  (List.range len).map (fun i => records.map (fun r => r.value.getD i 0x00#8))

/-- The split of secret' and the digest check (45_host_protocol R166, R167). -/
def checkDigest (h : Header) (bytes : List Byte) : Except HostError (List Byte) :=
  match digestOf h.hashId (bytes.take h.secretLen.toNat) with
  | none => .error .unknownHashId
  | some d =>
    if bytesEqual d (bytes.drop h.secretLen.toNat) then .ok (bytes.take h.secretLen.toNat) else .error .digestMismatch

/-- The block's part of reconstruct: load, LPREP, and LDOT per byte position (45_host_protocol R165). -/
def reconstructOnBlock (h : Header) (records : List ShareRecord) (s : State) : Except HostError (List Byte) × State :=
  match send reconstructFailure (reconstructSetup h.threshold (records.map ShareRecord.shareId)) s with
  | (.error e, t) => (.error e, t)
  | (.ok _, t) =>
    reconstructLoop (valueColumns records (h.secretLen.toNat + (digestLength h.hashId).getD 0)) t

/-- `reconstruct(shares)` on the block `s` (45_host_protocol R150, R162 to R170). Log entries 12, 16. -/
def hostReconstruct (shares : List (List Byte)) (s : State) : Except HostError (List Byte) × State :=
  match validateShares shares with
  | .error e => (.error e, closeCall s)
  | .ok (h, records) =>
    match reconstructOnBlock h records s with
    | (.error e, t) => (.error e, closeCall t)
    | (.ok bytes, t) => (checkDigest h bytes, closeCall t)

end Sys2Proof.Machine
end

