-- ==== Sys2Proof/Safety.lean ====
section
/-! DEFINITION. What counts as a sound state and a clean run, in the terms the statements use. -/

namespace Sys2Proof.Machine

/-- The points in use pass the point check: there is one, none is zero, there are at least M, and no two are equal
(44_lagrange R132, 10_state R30 (a) to (d)). -/
abbrev State.PointsGood (s : State) : Prop :=
  1 ≤ s.npts.toNat ∧ s.m.toNat ≤ s.npts.toNat ∧ (∀ k, k < s.npts.toNat → s.xs k ≠ 0x00#8) ∧
    ∀ l, l < s.npts.toNat → ∀ k, k < l → s.xs k ≠ s.xs l

/-- The invariant of 10_state R30: whenever WVALID = 1, the points in use are good and LW holds their weights. -/
abbrev State.WeightsSound (s : State) : Prop :=
  s.wvalid = true → s.PointsGood ∧ ∀ k, k < s.npts.toNat → s.lw k = s.weightOf k

/-- The fault record is one the hardware can hold (10_state R14, R23, R24; 60_exceptions R181, R185): with no fault it
is zero; with one, the code is 1 to 8, the word is not the NOP word, the counts of BAD_PARAM and INSUFFICIENT are
still NPTS and M, and the indices of DUP_POINT are those of two equal points in use. -/
def State.RecordSound (s : State) : Prop :=
  (s.err = 0x00#8 → s.ecmd = 0x00000000#32 ∧ s.eidx = 0x0000#16) ∧
  (s.err ≠ 0x00#8 → s.ecmd ≠ 0x00000000#32) ∧
  s.err.toNat ≤ 8 ∧
  (s.err = 0x04#8 ∨ s.err = 0x06#8 → s.eidx = (s.npts ++ s.m : BitVec 16)) ∧
  (s.err = 0x07#8 → ∃ k l, k < l ∧ l < s.npts.toNat ∧ s.xs k = s.xs l ∧
    s.eidx = (BitVec.ofNat 8 k ++ BitVec.ofNat 8 l : BitVec 16))

/-- The invariant every step keeps: the local space is in canonical form, the weights are sound, and so is the fault
record. -/
def State.Sound (s : State) : Prop := Memory.wf s.mem ∧ s.WeightsSound ∧ s.RecordSound

/-- A run has succeeded if the final ERR is 0x00 (70_reset R226). -/
def State.succeeded (s : State) : Bool := !s.halted

/-- Whether a move of the host is a command. -/
def isCommand : HostMove → Bool
  | .command _ => true
  | .reset => false

/-- A call has ended cleanly if its last command is CLR, whatever resets follow it (70_reset R226). -/
def endedCleanly (moves : List HostMove) : Bool :=
  (moves.filter isCommand).getLast? == some (.command (encode .clr))

/-- The run of a list of moves: each is made by one step of the machine (70_reset R226). -/
def runMoves (moves : List HostMove) (s : State) : Host.Outcome State Fault Refusal :=
  Host.Core.run Sys2Proof.core moves.length (s.withPending moves)

/-! ## The outcomes of a command, as states -/

/-- `s` with one more response, the error field being ERR (40_control R80). -/
def State.answered (s : State) (d : Word) : State := { s with responses := s.responses ++ [⟨s.err, d⟩] }

/-- `s` after a refused command: the response (ERR, 0), and nothing else (60_exceptions R188). -/
def State.refusedCommand (s : State) : State := s.answered 0x00000000#32

/-- `s` after taking a fault: the record, the response (code, 0), and nothing else (60_exceptions R184). -/
def State.faulted (s : State) (code : Byte) (w : Word) (detail : BitVec 16) : State :=
  { s with err := code, ecmd := w, eidx := detail, responses := s.responses ++ [⟨code, 0x00000000#32⟩] }

/-! ## Words, addresses and fields as the rules name them -/

/-- The words of the opcode map, format by format: the assigned opcodes with every must-be-zero field zero
(30_encoding R62 to R66, R70). -/
def LegalWord (w : Word) : Prop :=
  let op := w.extractLsb' 24 8
  ((op = 0x00#8 ∨ op = 0x01#8 ∨ op = 0x22#8 ∨ op = 0x41#8 ∨ op = 0x50#8 ∨ op = 0x51#8 ∨ op = 0x52#8) ∧
      w.extractLsb' 0 24 = 0#24) ∨
  ((op = 0x33#8 ∨ op = 0x40#8) ∧ w.extractLsb' 8 16 = 0#16) ∨
  ((op = 0x30#8 ∨ op = 0x31#8 ∨ op = 0x32#8) ∧ w.extractLsb' 16 8 = 0#8) ∨
  (op = 0x21#8 ∧ w.extractLsb' 18 6 = 0#6) ∨
  (op = 0x20#8 ∧ w.extractLsb' 18 6 = 0#6 ∧ w.extractLsb' 0 8 = 0#8) ∨
  (op = 0x11#8 ∧ w.extractLsb' 16 8 = 0#8 ∧ (w.extractLsb' 8 8).toNat < 8) ∨
  (op = 0x10#8 ∧ w.extractLsb' 16 8 = 0#8 ∧ (w.extractLsb' 8 8).toNat < 8 ∧ w.extractLsb' 0 8 = 0#8)

/-- The three commands that execute in the halted state too (60_exceptions R187). -/
def ExecutesHalted (i : Instr) : Prop := i = .nop ∨ i = .clr ∨ ∃ csr : Byte, csr.toNat < 8 ∧ i = .csrr csr

/-- The addresses of the local space a command may write when it completes (20_memory R53). -/
def StoresTo (i : Instr) (s : State) (a : Nat) : Prop :=
  match i with
  | .clr => True
  | .st addr _ => a = addr.toNat ∧ addr.toNat < 0x300
  | .ldseq => a < s.npts.toNat
  | .evaln => 0x100 ≤ a ∧ a < 0x100 + s.npts.toNat
  | .lprep | .lagr => 0x300 ≤ a ∧ a < 0x300 + s.npts.toNat
  | .nop | .csrr _ | .csrw _ _ | .ld _ | .gfadd _ _ | .gfmul _ _ | .gfdiv _ _ | .gfinv _ | .eval _ | .ldot => False

/-- The commands that write RES when they complete (10_state R11). -/
def WritesRes : Instr → Prop
  | .gfadd _ _ | .gfmul _ _ | .gfdiv _ _ | .gfinv _ | .eval _ | .ldot | .lagr => True
  | .nop | .clr | .csrr _ | .csrw _ _ | .ld _ | .st _ _ | .ldseq | .evaln | .lprep => False

/-- The commands that work on the arrays by index (20_memory R54). -/
def EngineCommand : Instr → Prop
  | .ldseq | .eval _ | .evaln | .lprep | .ldot | .lagr => True
  | .nop | .clr | .csrr _ | .csrw _ _ | .ld _ | .st _ _ | .gfadd _ _ | .gfmul _ _ | .gfdiv _ _ | .gfinv _ => False

/-- The commands and faults of the table of 60_exceptions R182. -/
def MayRaise (i : Instr) (c : FaultCode) : Prop :=
  match i with
  | .csrw _ _ | .st _ _ => c = .access
  | .gfdiv _ _ | .gfinv _ => c = .divZero
  | .eval _ | .evaln => c = .badParam ∨ c = .zeroPoint
  | .lprep | .lagr => c = .badParam ∨ c = .zeroPoint ∨ c = .insufficient ∨ c = .dupPoint
  | .ldot => c = .stale
  | .nop | .clr | .csrr _ | .ld _ | .ldseq | .gfadd _ _ | .gfmul _ _ => False

/-- A command raises a fault from some running state. -/
def RaisesSomewhere (i : Instr) (c : FaultCode) : Prop :=
  ∃ s t, s.err = 0x00#8 ∧ exec i s = .next t ∧ t.err = faultCode c

/-- WVALID after a command that completed without fault (10_state R13). -/
def wvalidAfter (i : Instr) (s : State) : Bool :=
  match i with
  | .lprep | .lagr => true
  | .clr | .ldseq => false
  | .st addr _ => if addr.toNat < 0x100 then false else s.wvalid
  | .csrw csr _ => if csr = 0x03#8 ∨ csr = 0x04#8 then false else s.wvalid
  | .nop | .csrr _ | .ld _ | .gfadd _ _ | .gfmul _ _ | .gfdiv _ _ | .gfinv _ | .eval _ | .evaln | .ldot => s.wvalid

/-- The response data of a command that completed without fault, `t` being the state after it (40_control R87). -/
def dataAfter (i : Instr) (s t : State) : Word :=
  match i with
  | .nop | .clr | .csrw _ _ | .st _ _ | .ldseq | .evaln | .lprep => 0x00000000#32
  | .csrr csr => (csrValue csr s).getD 0x00000000#32
  | .ld addr => (Memory.read s.mem addr.toNat).setWidth 32
  | .gfadd _ _ | .gfmul _ _ | .gfdiv _ _ | .gfinv _ | .eval _ | .ldot | .lagr => t.res.setWidth 32

/-- Two states that agree but for array entries no engine uses: XS, VS and LW from NPTS on, CS from M on (20_memory
R54). -/
def SameInUse (s s' : State) : Prop :=
  s' = { s with mem := s'.mem } ∧
  (∀ k, k < s.npts.toNat → s'.xs k = s.xs k ∧ s'.vs k = s.vs k ∧ s'.lw k = s.lw k) ∧
  ∀ k, k < s.m.toNat → s'.cs k = s.cs k

/-- The exclusive-or of `e 0` to `e (n-1)` (00_scope R5). -/
def xorOver (n : Nat) (e : Nat → Byte) : Byte := (List.range n).foldl (fun sum k => sum ^^^ e k) 0x00#8

/-- The field product of `e l` over l < n, l ≠ k (00_scope R5). -/
def prodExcept (n k : Nat) (e : Nat → Byte) : Byte :=
  (List.range n).foldl (fun r l => if l = k then r else gmul r (e l)) 0x01#8

end Sys2Proof.Machine
end

