-- ==== Sys2Proof/Certificates/Slice0/Obligations.lean ====
section
/-! DEFINITION. The statements for the provers, each from the numbered rule its docstring names. -/

open Sys2Proof Sys2Proof.Machine

/-! ## Reset, encoding and decoding -/

/-- 10_state R32: every register, flag and array entry after reset, the constant ID, and CLR's result as the reset
state with IE kept (the ports are the model's own, log entries 1 and 2). -/
def Obligations.ResetLeavesEveryValueZero : Prop :=
  State.reset.res = 0x00#8 ∧ State.reset.npts = 0x00#8 ∧ State.reset.m = 0x00#8 ∧ State.reset.err = 0x00#8 ∧
  State.reset.ecmd = 0x00000000#32 ∧ State.reset.eidx = 0x0000#16 ∧ State.reset.wvalid = false ∧
  State.reset.ie = false ∧ (∀ (b : Bank) (k : Nat), State.reset.entry b k = 0x00#8) ∧
  csrValue 0x00#8 State.reset = some 0x4746011B#32 ∧
  ∀ s : State, exec .clr s =
    .next { State.reset with
      ie := s.ie, pending := s.pending, responses := s.responses ++ [⟨0x00#8, 0x00000000#32⟩] }

/-- 30_encoding R67, R74 and 95_test_vectors: words written out from the spec decode to the commands they stand for,
one or more for every family, and words the spec calls illegal decode to no command. -/
def Obligations.SpecWordsDecodeToTheirCommands : Prop :=
  decode 0x00000000#32 = .ok .nop ∧ decode 0x01000000#32 = .ok .clr ∧
  decode 0x10000700#32 = .ok (.csrr 0x07#8) ∧ decode 0x11000305#32 = .ok (.csrw 0x03#8 0x05#8) ∧
  decode 0x210102AB#32 = .ok (.st 0x102#10 0xAB#8) ∧ decode 0x20030000#32 = .ok (.ld 0x300#10) ∧
  decode 0x31005783#32 = .ok (.gfmul 0x57#8 0x83#8) ∧ decode 0x3200C183#32 = .ok (.gfdiv 0xC1#8 0x83#8) ∧
  decode 0x33000053#32 = .ok (.gfinv 0x53#8) ∧ decode 0x40000003#32 = .ok (.eval 0x03#8) ∧
  decode 0x52000000#32 = .ok .lagr ∧
  (∀ i, decode 0x02000000#32 ≠ .ok i) ∧ (∀ i, decode 0x00000001#32 ≠ .ok i) ∧
  (∀ i, decode 0x10000800#32 ≠ .ok i) ∧ ∀ i, decode 0xFFFFFFFF#32 ≠ .ok i

/-- 30_encoding R67, R69: decoding reads the table of masks and patterns, and at most one row matches a word. -/
def Obligations.DecodeReadsTheOneMatchingRow : Prop :=
  (∀ (w : Word) (i : Instr),
    decode w = .ok i ↔ ∃ r ∈ opcodeRows, w &&& r.mask = r.pattern ∧ i = r.build w) ∧
  (∀ (w : Word) (r q : OpcodeRow), r ∈ opcodeRows → q ∈ opcodeRows → w &&& r.mask = r.pattern →
    w &&& q.mask = q.pattern → r = q) ∧
  opcodeRows.length = 16

/-- 30_encoding R62 to R67: decoding the word of any well-formed command gives it back, every operand at every value. -/
def Obligations.DecodeOfEncodeIsTheCommand : Prop :=
  ∀ i : Instr, WellFormed i = true → decode (encode i) = .ok i

/-- 30_encoding R67, R69: a word that decodes is the word of the command it decodes to, and that command is
well-formed, so every legal word has one meaning and ECMD, which the model computes with `encode`, is the word that
faulted (log entry 5). -/
def Obligations.EncodeOfDecodeIsTheWord : Prop :=
  ∀ (w : Word) (i : Instr), decode w = .ok i → encode i = w ∧ WellFormed i = true

/-- 30_encoding R70: a word is illegal exactly when its opcode is unassigned, a must-be-zero bit of its format is 1 or
its CSR number is 0x08 or more. Running, it faults ILLEGAL_CMD and records itself; halted, it is refused; it changes no
data state. -/
def Obligations.IllegalWordsAreExactlyThoseOfTheRule : Prop :=
  (∀ w : Word, (∃ i, decode w = .ok i) ↔ LegalWord w) ∧
  ∀ (s : State) (w : Word) (rest : List HostMove), s.pending = .command w :: rest → ¬ LegalWord w →
    (s.err = 0x00#8 → step s = .next ((s.withPending rest).faulted 0x01#8 w 0x0000#16)) ∧
    (s.err ≠ 0x00#8 → step s = .next (s.withPending rest).refusedCommand)

/-- 30_encoding R74: each pseudo-instruction is one command, with the addresses 0x000+i, 0x100+i, 0x200+i and 0x300+i
of R73. -/
def Obligations.PseudoInstructionsExpandToOneCommand : Prop :=
  (∀ n : Byte, expand (.setn n) = .csrw 0x03#8 n) ∧ (∀ m : Byte, expand (.setm m) = .csrw 0x04#8 m) ∧
  (∀ i v : Byte, ∃ a : BitVec 10, a.toNat = 0x000 + i.toNat ∧ expand (.ldx i v) = .st a v) ∧
  (∀ i v : Byte, ∃ a : BitVec 10, a.toNat = 0x100 + i.toNat ∧ expand (.ldv i v) = .st a v) ∧
  (∀ i v : Byte, ∃ a : BitVec 10, a.toNat = 0x200 + i.toNat ∧ expand (.ldc i v) = .st a v) ∧
  (∀ i : Byte, ∃ a : BitVec 10, a.toNat = 0x000 + i.toNat ∧ expand (.rdx i) = .ld a) ∧
  (∀ i : Byte, ∃ a : BitVec 10, a.toNat = 0x100 + i.toNat ∧ expand (.rdv i) = .ld a) ∧
  (∀ i : Byte, ∃ a : BitVec 10, a.toNat = 0x200 + i.toNat ∧ expand (.rdc i) = .ld a) ∧
  (∀ i : Byte, ∃ a : BitVec 10, a.toNat = 0x300 + i.toNat ∧ expand (.rdw i) = .ld a) ∧
  expand .rdres = .csrr 0x05#8 ∧ expand .rdstat = .csrr 0x01#8 ∧
  expand .irqen = .csrw 0x02#8 0x01#8 ∧ expand .irqdis = .csrw 0x02#8 0x00#8 ∧
  encode (.gfmul 0x57#8 0x83#8) = 0x31005783#32 ∧ encode (.st 0x102#10 0xAB#8) = 0x210102AB#32 ∧
  encode (.ld 0x300#10) = 0x20030000#32 ∧ encode (.csrw 0x03#8 0x05#8) = 0x11000305#32 ∧
  encode (.eval 0x03#8) = 0x40000003#32 ∧ encode .lagr = 0x52000000#32

/-! ## The step -/

/-- 40_control R80: a presented word that decodes is executed by its own rule, the word taken off the port and nothing
else changed around it; the bytes of the word on a byte channel decode to the same command (20_memory R43). -/
def Obligations.StepRunsTheDecodedCommand : Prop :=
  ∀ (s : State) (w : Word) (rest : List HostMove) (i : Instr),
    s.pending = .command w :: rest → decode w = .ok i →
      decodeBytes (wordBytes w) = .ok (i, []) ∧ step s = exec i { s with pending := rest }

/-- 40_control R80, the execution frame whole: every presented word has exactly one next state and one response, whose
error is ERR after the command and whose data is that of R87; a halted block executes NOP, CLR and legal CSRR and refuses every other word with no
state change; a running block faults ILLEGAL_CMD on an illegal word and executes any other. -/
def Obligations.EveryWordHasOneOutcomeAndOneResponse : Prop :=
  ∀ (s : State) (w : Word) (rest : List HostMove), s.pending = .command w :: rest →
    (∃ t r, step s = .next t ∧ t.pending = rest ∧ t.responses = s.responses ++ [r] ∧ r.err = t.err ∧
      (∀ i, decode w = .ok i → t.err = 0x00#8 ∨ ExecutesHalted i → r.data = dataAfter i s t) ∧
      (t.err ≠ 0x00#8 → (∀ i, decode w = .ok i → ¬ ExecutesHalted i) → r.data = 0x00000000#32)) ∧
    (∀ i, decode w = .ok i → (s.err = 0x00#8 ∨ ExecutesHalted i) → step s = exec i { s with pending := rest }) ∧
    (s.err ≠ 0x00#8 → (∀ i, decode w = .ok i → ¬ ExecutesHalted i) →
      step s = .next ({ s with pending := rest } : State).refusedCommand) ∧
    (s.err = 0x00#8 → (∀ i, decode w ≠ .ok i) →
      step s = .next (({ s with pending := rest } : State).faulted 0x01#8 w 0x0000#16))

/-- 70_reset R210 and 10_state R32: a reset pulse puts every register and every array entry at its reset value,
whatever the state before, and is the only move that changes IE to 0 while the block is halted. -/
def Obligations.ResetPulseRestoresTheResetState : Prop :=
  (∀ (s : State) (rest : List HostMove), s.pending = .reset :: rest →
    ∃ t, step s = .next t ∧ t = { State.reset with pending := t.pending, responses := t.responses }) ∧
  ∀ s t : State, s.err ≠ 0x00#8 → s.ie = true → step s = .next t →
    (t.ie = false ↔ ∃ rest, s.pending = .reset :: rest)

/-- The model's choice (log entry 4): a reset pulse gives no response, and the host's later moves and the responses it
has taken stay with the host. -/
def Obligations.ResetPulseKeepsThePorts : Prop :=
  ∀ (s : State) (rest : List HostMove), s.pending = .reset :: rest →
    ∃ t, step s = .next t ∧ t.pending = rest ∧ t.responses = s.responses

/-- The model's choice (log entry 3): with nothing presented the block waits, and nothing changes. -/
def Obligations.BlockWaitsWithNothingPresented : Prop :=
  ∀ s : State, s.pending = [] → step s = .next s

/-- 70_reset R218, R226: a run makes every move of the list, and every command, also a refused and a faulting one, gets
its response: one per command, after those given before, the k-th new response being the one that the k-th command's
own step appends in the state the moves before it leave. -/
def Obligations.RunAnswersEveryCommandInOrder : Prop :=
  ∀ (moves : List HostMove) (s : State), ∃ t rs, runMoves moves s = .next t ∧ t.pending = [] ∧
    t.responses = s.responses ++ rs ∧ rs.length = moves.countP isCommand ∧
    ∀ (before after : List HostMove) (w : Word), moves = before ++ .command w :: after →
      ∃ u v r, runMoves before s = .next u ∧ step (u.withPending [.command w]) = .next v ∧
        v.responses = u.responses ++ [r] ∧ rs[before.countP isCommand]? = some r

/-! ## Control commands -/

/-- 40_control R81: NOP, in both the running and the halted state. -/
def Obligations.NopReportsErrAndWritesNothing : Prop :=
  encode .nop = 0x00000000#32 ∧
  ∀ s : State, exec .nop s = .next { s with responses := s.responses ++ [⟨s.err, 0x00000000#32⟩] }

/-- 40_control R82: CLR, in both the running and the halted state, wipes everything but IE; after it `irq` is low; in
the reset state it changes nothing but the response, and twice is as once. -/
def Obligations.ClrWipesAllStateButIe : Prop :=
  encode .clr = 0x01000000#32 ∧
  ∀ s : State, ∃ t, exec .clr s = .next t ∧
    t = { s with
      res := 0x00#8, npts := 0x00#8, m := 0x00#8, err := 0x00#8, ecmd := 0x00000000#32, eidx := 0x0000#16,
      wvalid := false, mem := t.mem, responses := s.responses ++ [⟨0x00#8, 0x00000000#32⟩] } ∧
    (∀ a, Memory.read t.mem a = 0x00#8) ∧
    t = { State.reset with ie := s.ie, pending := s.pending, responses := t.responses } ∧ t.irq = false ∧
    (s = State.reset → t = { s with responses := t.responses }) ∧
    ∃ u, exec .clr t = .next u ∧ u = { t with responses := u.responses }

/-- 40_control R83: CSRR answers the 32-bit value of each of the eight registers, running or halted, and writes
nothing; a `csr` of 0x08 or more, or a nonzero `val`, is an illegal word. -/
def Obligations.CsrrAnswersTheRegister : Prop :=
  (∀ csr : Byte, encode (.csrr csr) = 0x10000000#32 ||| csr.setWidth 32 <<< 8) ∧
  (∀ (csr : Byte) (s : State), csr.toNat < 8 → ∃ v : Word,
    exec (.csrr csr) s = .next { s with responses := s.responses ++ [⟨s.err, v⟩] } ∧
    (csr = 0x00#8 → v = 0x4746011B#32) ∧
    (csr = 0x01#8 → v.extractLsb' 0 8 = s.err ∧ v.getLsbD 8 = s.wvalid ∧ v.extractLsb' 9 23 = 0#23) ∧
    (csr = 0x02#8 → v.getLsbD 0 = s.ie ∧ v.extractLsb' 1 31 = 0#31) ∧
    (csr = 0x03#8 → v.toNat = s.npts.toNat) ∧ (csr = 0x04#8 → v.toNat = s.m.toNat) ∧
    (csr = 0x05#8 → v.toNat = s.res.toNat) ∧ (csr = 0x06#8 → v = s.ecmd) ∧
    (csr = 0x07#8 → v.toNat = s.eidx.toNat)) ∧
  ∀ (csr val : Byte), 8 ≤ csr.toNat ∨ val ≠ 0x00#8 → ∀ i,
    decode (0x10000000#32 ||| csr.setWidth 32 <<< 8 ||| val.setWidth 32) ≠ .ok i

/-- 40_control R84: CSRW writes CTRL bit 0, NPTS or M, clearing WVALID for the last two; a read-only CSR faults
ACCESS with EIDX {0x00, csr}; halted it is refused; a `csr` of 0x08 or more is an illegal word. -/
def Obligations.CsrwWritesTheWritableRegisters : Prop :=
  (∀ csr val : Byte, encode (.csrw csr val) = 0x11000000#32 ||| csr.setWidth 32 <<< 8 ||| val.setWidth 32) ∧
  (∀ (val : Byte) (s : State), s.err = 0x00#8 →
    exec (.csrw 0x02#8 val) s = .next (({ s with ie := val.getLsbD 0 } : State).answered 0x00000000#32) ∧
    exec (.csrw 0x03#8 val) s = .next (({ s with npts := val, wvalid := false } : State).answered 0x00000000#32) ∧
    exec (.csrw 0x04#8 val) s = .next (({ s with m := val, wvalid := false } : State).answered 0x00000000#32)) ∧
  (∀ (csr val : Byte) (s : State), s.err = 0x00#8 →
    (csr = 0x00#8 ∨ csr = 0x01#8 ∨ csr = 0x05#8 ∨ csr = 0x06#8 ∨ csr = 0x07#8) →
    exec (.csrw csr val) s = .next (s.faulted 0x02#8 (encode (.csrw csr val)) (0x00#8 ++ csr))) ∧
  (∀ (csr val : Byte) (s : State), s.err ≠ 0x00#8 → exec (.csrw csr val) s = .next s.refusedCommand) ∧
  ∀ (csr val : Byte), 8 ≤ csr.toNat → ∀ i,
    decode (0x11000000#32 ||| csr.setWidth 32 <<< 8 ||| val.setWidth 32) ≠ .ok i

/-! ## Local memory commands -/

/-- 41_loadstore R91: LD answers one byte, zero-extended, of any of the 1024 addresses and writes nothing; halted it is
refused; a nonzero data field or a 1 in w[23:18] is an illegal word. -/
def Obligations.LdAnswersTheByteAtTheAddress : Prop :=
  (∀ addr : BitVec 10, encode (.ld addr) = 0x20000000#32 ||| addr.setWidth 32 <<< 8) ∧
  (∀ (addr : BitVec 10) (s : State), s.err = 0x00#8 →
    exec (.ld addr) s = .next (s.answered ((Memory.read s.mem addr.toNat).setWidth 32))) ∧
  (∀ (addr : BitVec 10) (s : State), s.err ≠ 0x00#8 → exec (.ld addr) s = .next s.refusedCommand) ∧
  (∀ w : Word, w.extractLsb' 24 8 = 0x20#8 → w.extractLsb' 0 8 ≠ 0#8 ∨ w.extractLsb' 18 6 ≠ 0#6 →
    ∀ i, decode w ≠ .ok i) ∧
  ∀ addr : BitVec 10, Memory.read State.reset.mem addr.toNat = 0x00#8

/-- 41_loadstore R92: ST writes the byte at its address in banks 0 to 2, clearing WVALID for bank 0 whatever the data,
and changes no other byte; bank 3 faults ACCESS with EIDX {0x03, addr[7:0]} and writes nothing; halted it is refused. -/
def Obligations.StWritesOneByteOfThreeBanks : Prop :=
  (∀ (addr : BitVec 10) (data : Byte),
    encode (.st addr data) = 0x21000000#32 ||| addr.setWidth 32 <<< 8 ||| data.setWidth 32) ∧
  (∀ (addr : BitVec 10) (data : Byte) (s : State), Memory.wf s.mem → s.err = 0x00#8 → addr.toNat < 0x300 →
    ∃ t, exec (.st addr data) s = .next t ∧
      t = { s with
        mem := t.mem, wvalid := if addr.toNat < 0x100 then false else s.wvalid,
        responses := s.responses ++ [⟨0x00#8, 0x00000000#32⟩] } ∧
      ∀ a, Memory.read t.mem a = if a = addr.toNat then data else Memory.read s.mem a) ∧
  (∀ (addr : BitVec 10) (data : Byte) (s : State), s.err = 0x00#8 → 0x300 ≤ addr.toNat →
    exec (.st addr data) s =
      .next (s.faulted 0x02#8 (encode (.st addr data)) (0x03#8 ++ addr.extractLsb' 0 8))) ∧
  ∀ (addr : BitVec 10) (data : Byte) (s : State), s.err ≠ 0x00#8 → exec (.st addr data) s = .next s.refusedCommand

/-- 41_loadstore R93: LDSEQ writes j+1 to XS[j] for every j below NPTS and changes no other byte, clears WVALID (also
when NPTS is 0), and leaves points that are nonzero and pairwise distinct; halted it is refused. -/
def Obligations.LdseqFillsThePointsInSequence : Prop :=
  encode .ldseq = 0x22000000#32 ∧
  (∀ s : State, Memory.wf s.mem → s.err = 0x00#8 →
    ∃ t, exec .ldseq s = .next t ∧
      t = { s with
        mem := t.mem, wvalid := false, responses := s.responses ++ [⟨0x00#8, 0x00000000#32⟩] } ∧
      (∀ a, Memory.read t.mem a = if a < s.npts.toNat then BitVec.ofNat 8 (a + 1) else Memory.read s.mem a) ∧
      (∀ j, j < s.npts.toNat → (t.xs j).toNat = j + 1) ∧
      (∀ j, j < s.npts.toNat → t.xs j ≠ 0x00#8) ∧
      ∀ j k, j < k → k < s.npts.toNat → t.xs j ≠ t.xs k) ∧
  ∀ s : State, s.err ≠ 0x00#8 → exec .ldseq s = .next s.refusedCommand

/-! ## The field -/

/-- 42_gf_scalar R102, R103: the product by shift and add is the carry-less product reduced by 0x11B from bit 14 down
to bit 8. -/
def Obligations.ProductEqualsReducedCarrylessProduct : Prop :=
  (∀ a : Byte, mulx a = gmul a 0x02#8) ∧ (∀ a b : Byte, carrylessMul a b = gmul a b) ∧
  gmul 0x57#8 0x83#8 = 0xC1#8 ∧ carrylessProduct 0x57#8 0x83#8 = 0x2B79#15

/-- 42_gf_scalar R104: the laws of the field, for all bytes. -/
def Obligations.FieldLawsHold : Prop :=
  (∀ a b : Byte, gmul a b = gmul b a) ∧
  (∀ a : Byte, gmul a 0x00#8 = 0x00#8 ∧ gmul 0x00#8 a = 0x00#8) ∧
  (∀ a : Byte, gmul a 0x01#8 = a) ∧
  (∀ a b c : Byte, gmul (gmul a b) c = gmul a (gmul b c)) ∧
  (∀ a b c : Byte, gmul a (b ^^^ c) = gmul a b ^^^ gmul a c) ∧
  (∀ a b : Byte, gmul a b = 0x00#8 → a = 0x00#8 ∨ b = 0x00#8) ∧
  (∀ a b : Byte, b ≠ 0x00#8 → gmul (gdiv a b) b = a ∧ gdiv (gmul a b) b = a) ∧
  (∀ a : Byte, a ≠ 0x00#8 → gpow a 255 = 0x01#8) ∧
  ∃ g : Byte, ∀ a : Byte, a ≠ 0x00#8 → ∃ i, i < 255 ∧ gpow g i = a

/-- 42_gf_scalar R105, R110: with the generator 0x03 the tables hold its powers and its logarithms, 0x03 has order 255,
and 0x02 has order 51. -/
def Obligations.TablesHoldPowersOfTheGenerator : Prop :=
  (∀ i, i < 256 → expEntry i = some (gpow Config.generator i)) ∧
  (∀ x : Byte, x ≠ 0x00#8 → ∃ i, i < 255 ∧ logEntry x = some i ∧ gpow Config.generator i = x) ∧
  logEntry 0x00#8 = none ∧
  (∀ i, 0 < i → i < 255 → gpow Config.generator i ≠ 0x01#8) ∧ gpow Config.generator 255 = 0x01#8 ∧
  gpow 0x02#8 51 = 0x01#8 ∧ ∀ i, 0 < i → i < 51 → gpow 0x02#8 i ≠ 0x01#8

/-- 42_gf_scalar R106: the table multiply is the product, on all pairs, and its sum of logarithms is at most 508; with
any other generator the exponents add in the same way. -/
def Obligations.TableMultiplyEqualsProduct : Prop :=
  (∀ a b : Byte, tableMul a b = some (gmul a b)) ∧
  (∀ (a b : Byte) (i j : Nat), logEntry a = some i → logEntry b = some j → i + j ≤ 508) ∧
  ∀ (g : Byte) (i j : Nat), g ≠ 0x00#8 → gmul (gpow g i) (gpow g j) = gpow g ((i + j) % 255)

/-- 42_gf_scalar R107: the table divide is the quotient for nonzero operands, its index between 1 and 509. -/
def Obligations.TableDivideEqualsQuotient : Prop :=
  (∀ a b : Byte, a ≠ 0x00#8 → b ≠ 0x00#8 → tableDiv a b = some (gdiv a b)) ∧
  (∀ a : Byte, tableDiv a 0x00#8 = none ∧ tableDiv 0x00#8 a = none) ∧
  ∀ (a b : Byte) (i j : Nat), logEntry a = some i → logEntry b = some j →
    j ≤ 255 + i ∧ 1 ≤ 255 + i - j ∧ 255 + i - j ≤ 509

/-- 42_gf_scalar R108: the inverse is the unique byte with product 0x01, is the 254th power, and is what the
logarithm form and the printed table give; 0x00 has no entry. -/
def Obligations.InverseIsUniqueAndTabled : Prop :=
  (∀ a : Byte, a ≠ 0x00#8 →
    gmul a (ginv a) = 0x01#8 ∧ (∀ b : Byte, gmul a b = 0x01#8 → b = ginv a) ∧ ginv a = gpow a 254 ∧
    tableInv a = some (ginv a) ∧ invEntry a = some (ginv a)) ∧
  invEntry 0x00#8 = none ∧ tableInv 0x00#8 = none ∧ ∀ b : Byte, gmul 0x00#8 b ≠ 0x01#8

/-! ## Scalar commands -/

/-- 42_gf_scalar R111: GFADD. -/
def Obligations.GfaddWritesTheExclusiveOr : Prop :=
  ∀ (a b : Byte) (s : State),
    encode (.gfadd a b) = 0x30000000#32 ||| a.setWidth 32 <<< 8 ||| b.setWidth 32 ∧
    (s.err = 0x00#8 →
      exec (.gfadd a b) s = .next (({ s with res := a ^^^ b } : State).answered ((a ^^^ b).setWidth 32))) ∧
    (s.err ≠ 0x00#8 → exec (.gfadd a b) s = .next s.refusedCommand)

/-- 42_gf_scalar R112: GFMUL, with its corner cases. -/
def Obligations.GfmulWritesTheProduct : Prop :=
  ∀ (a b : Byte) (s : State),
    encode (.gfmul a b) = 0x31000000#32 ||| a.setWidth 32 <<< 8 ||| b.setWidth 32 ∧
    (s.err = 0x00#8 →
      exec (.gfmul a b) s = .next (({ s with res := gmul a b } : State).answered ((gmul a b).setWidth 32))) ∧
    (s.err ≠ 0x00#8 → exec (.gfmul a b) s = .next s.refusedCommand) ∧
    gmul a 0x00#8 = 0x00#8 ∧ gmul 0x00#8 b = 0x00#8 ∧ gmul a 0x01#8 = a ∧ gmul 0x01#8 b = b ∧
    (a ≠ 0x00#8 → b ≠ 0x00#8 → gmul a b ≠ 0x00#8)

/-- 42_gf_scalar R113: GFDIV writes the quotient for a nonzero denominator and faults DIV_ZERO for a zero one, whatever
the numerator. -/
def Obligations.GfdivWritesTheQuotient : Prop :=
  ∀ (a b : Byte) (s : State),
    encode (.gfdiv a b) = 0x32000000#32 ||| a.setWidth 32 <<< 8 ||| b.setWidth 32 ∧
    (s.err = 0x00#8 → b ≠ 0x00#8 →
      gmul (gdiv a b) b = a ∧
      exec (.gfdiv a b) s = .next (({ s with res := gdiv a b } : State).answered ((gdiv a b).setWidth 32))) ∧
    (s.err = 0x00#8 →
      exec (.gfdiv a 0x00#8) s = .next (s.faulted 0x03#8 (encode (.gfdiv a 0x00#8)) 0x0000#16)) ∧
    (s.err ≠ 0x00#8 → exec (.gfdiv a b) s = .next s.refusedCommand) ∧
    (b ≠ 0x00#8 → gdiv 0x00#8 b = 0x00#8 ∧ gdiv b b = 0x01#8) ∧ gdiv a 0x01#8 = a

/-- 42_gf_scalar R114: GFINV writes the inverse, faults DIV_ZERO on 0x00, and agrees with GFDIV 0x01, a. -/
def Obligations.GfinvWritesTheInverse : Prop :=
  ∀ (a : Byte) (s : State),
    encode (.gfinv a) = 0x33000000#32 ||| a.setWidth 32 ∧
    (s.err = 0x00#8 → a ≠ 0x00#8 →
      gmul a (ginv a) = 0x01#8 ∧
      exec (.gfinv a) s = .next (({ s with res := ginv a } : State).answered ((ginv a).setWidth 32))) ∧
    (s.err = 0x00#8 →
      exec (.gfinv 0x00#8) s = .next (s.faulted 0x03#8 (encode (.gfinv 0x00#8)) 0x0000#16)) ∧
    (s.err ≠ 0x00#8 → exec (.gfinv a) s = .next s.refusedCommand) ∧
    (a ≠ 0x00#8 → exec (.gfinv a) s = exec (.gfdiv 0x01#8 a) s) ∧
    ginv 0x01#8 = 0x01#8 ∧ (a ≠ 0x00#8 → ginv (ginv a) = a)

/-! ## Polynomial evaluation -/

/-- 43_polyeval R120, R121: the running-power loop gives the polynomial's sum of terms; at 0x00 it gives the constant
term, and with one coefficient it is constant. -/
def Obligations.EvaluationIsThePolynomialSum : Prop :=
  ∀ (c : Nat → Byte) (m : Nat) (x : Byte), 1 ≤ m →
    peval c m x = xorOver m (fun k => gmul (c k) (gpow x k)) ∧ peval c m 0x00#8 = c 0 ∧ peval c 1 x = c 0

/-- 43_polyeval R122: Horner's rule is the same function. -/
def Obligations.HornerEqualsRunningPower : Prop :=
  ∀ (c : Nat → Byte) (m : Nat) (x : Byte), 1 ≤ m → horner c m x = peval c m x

/-- 43_polyeval R126, the algebraic fact: polynomials with m coefficients that agree at m pairwise distinct points have
the same coefficients. -/
def Obligations.ValuesAtDistinctPointsDetermineThePolynomial : Prop :=
  ∀ (c c' x : Nat → Byte) (m : Nat), 1 ≤ m → (∀ k l, k < l → l < m → x k ≠ x l) →
    (∀ k, k < m → peval c m (x k) = peval c' m (x k)) → ∀ j, j < m → c j = c' j

/-- 43_polyeval R123: EVAL writes the value at its point; M = 0 faults BAD_PARAM before a zero point faults ZERO_POINT;
halted it is refused. -/
def Obligations.EvalWritesTheValueAtThePoint : Prop :=
  ∀ (x : Byte) (s : State),
    encode (.eval x) = 0x40000000#32 ||| x.setWidth 32 ∧
    (s.err = 0x00#8 → s.m ≠ 0x00#8 → x ≠ 0x00#8 →
      exec (.eval x) s = .next (({ s with res := peval s.cs s.m.toNat x } : State).answered
        ((peval s.cs s.m.toNat x).setWidth 32))) ∧
    (s.err = 0x00#8 → s.m = 0x00#8 →
      exec (.eval x) s = .next (s.faulted 0x04#8 (encode (.eval x)) (s.npts ++ s.m))) ∧
    (s.err = 0x00#8 → s.m ≠ 0x00#8 →
      exec (.eval 0x00#8) s = .next (s.faulted 0x05#8 (encode (.eval 0x00#8)) 0x0000#16)) ∧
    (s.err ≠ 0x00#8 → exec (.eval x) s = .next s.refusedCommand) ∧
    peval s.cs 1 x = s.cs 0 ∧ (s.m ≠ 0x00#8 → peval s.cs s.m.toNat 0x01#8 = xorOver s.m.toNat s.cs)

/-- 43_polyeval R124: EVALN writes the value at XS[j] to VS[j] for every j below NPTS and changes no other byte and no
register; a count out of range faults BAD_PARAM, and then a zero point ZERO_POINT with the smallest index; distinctness
is not asked; halted it is refused. -/
def Obligations.EvalnFillsTheValues : Prop :=
  encode .evaln = 0x41000000#32 ∧
  (∀ s : State, Memory.wf s.mem → s.err = 0x00#8 → 1 ≤ s.m.toNat → s.m.toNat ≤ s.npts.toNat →
    (∀ j, j < s.npts.toNat → s.xs j ≠ 0x00#8) →
    ∃ t, exec .evaln s = .next t ∧
      t = { s with mem := t.mem, responses := s.responses ++ [⟨0x00#8, 0x00000000#32⟩] } ∧
      (∀ j, j < s.npts.toNat → t.vs j = peval s.cs s.m.toNat (s.xs j)) ∧
      ∀ a, a < 0x100 ∨ 0x100 + s.npts.toNat ≤ a → Memory.read t.mem a = Memory.read s.mem a) ∧
  (∀ s : State, s.err = 0x00#8 → s.m.toNat = 0 ∨ s.npts.toNat = 0 ∨ s.npts.toNat < s.m.toNat →
    exec .evaln s = .next (s.faulted 0x04#8 (encode .evaln) (s.npts ++ s.m))) ∧
  (∀ (s : State) (j : Nat), s.err = 0x00#8 → 1 ≤ s.m.toNat → s.m.toNat ≤ s.npts.toNat → j < s.npts.toNat →
    s.xs j = 0x00#8 → (∀ i, i < j → s.xs i ≠ 0x00#8) →
    exec .evaln s = .next (s.faulted 0x05#8 (encode .evaln) (BitVec.ofNat 8 j ++ BitVec.ofNat 8 j))) ∧
  ∀ s : State, s.err ≠ 0x00#8 → exec .evaln s = .next s.refusedCommand

/-! ## Lagrange interpolation -/

/-- 44_lagrange R132: the point check, its four faults in order, and when it passes. -/
def Obligations.PointCheckReportsTheFirstFault : Prop :=
  ∀ s : State,
    (s.npts = 0x00#8 → pcheck s = some (.badParam, s.npts, s.m)) ∧
    (∀ k, k < s.npts.toNat → s.xs k = 0x00#8 → (∀ j, j < k → s.xs j ≠ 0x00#8) →
      pcheck s = some (.zeroPoint, BitVec.ofNat 8 k, BitVec.ofNat 8 k)) ∧
    (s.npts ≠ 0x00#8 → (∀ k, k < s.npts.toNat → s.xs k ≠ 0x00#8) → s.npts.toNat < s.m.toNat →
      pcheck s = some (.insufficient, s.npts, s.m)) ∧
    (∀ k l, k < l → l < s.npts.toNat → (∀ j, j < s.npts.toNat → s.xs j ≠ 0x00#8) → s.m.toNat ≤ s.npts.toNat →
      s.xs k = s.xs l →
      (∀ k' l', k' < l' → l' < s.npts.toNat → s.xs k' = s.xs l' → k < k' ∨ (k = k' ∧ l ≤ l')) →
      pcheck s = some (.dupPoint, BitVec.ofNat 8 k, BitVec.ofNat 8 l)) ∧
    (s.PointsGood → pcheck s = none)

/-- 44_lagrange R133: LPREP writes L_k(0) to LW[k] for every k below NPTS, all from the points before, sets WVALID and
changes no other byte and no register; otherwise it takes the fault of the point check; halted it is refused. -/
def Obligations.LprepWritesTheWeights : Prop :=
  encode .lprep = 0x50000000#32 ∧
  (∀ s : State, Memory.wf s.mem → s.err = 0x00#8 → s.PointsGood →
    ∃ t, exec .lprep s = .next t ∧
      t = { s with
        mem := t.mem, wvalid := true, responses := s.responses ++ [⟨0x00#8, 0x00000000#32⟩] } ∧
      (∀ k, k < s.npts.toNat → t.lw k = s.weightOf k) ∧
      ∀ a, a < 0x300 ∨ 0x300 + s.npts.toNat ≤ a → Memory.read t.mem a = Memory.read s.mem a) ∧
  (∀ (s : State) (c : FaultCode) (hi lo : Byte), s.err = 0x00#8 → pcheck s = some (c, hi, lo) →
    exec .lprep s = .next (s.faulted (faultCode c) (encode .lprep) (hi ++ lo))) ∧
  (∀ s : State, s.WeightsSound → (pcheck s).isSome = true → s.wvalid = false) ∧
  ∀ s : State, s.err ≠ 0x00#8 → exec .lprep s = .next s.refusedCommand

/-- 44_lagrange R134: LDOT writes the sum of the products of values and weights to RES and nothing else; with WVALID = 0
it faults STALE; with sound weights, values that all equal one byte give that byte; halted it is refused. -/
def Obligations.LdotWritesTheInterpolatedByte : Prop :=
  encode .ldot = 0x51000000#32 ∧
  (∀ s : State, s.err = 0x00#8 → s.wvalid = true →
    ∃ v, v = xorOver s.npts.toNat (fun k => gmul (s.vs k) (s.lw k)) ∧
      exec .ldot s = .next (({ s with res := v } : State).answered (v.setWidth 32))) ∧
  (∀ s : State, s.err = 0x00#8 → s.wvalid = false →
    exec .ldot s = .next (s.faulted 0x08#8 (encode .ldot) 0x0000#16)) ∧
  (∀ (s : State) (v : Byte), s.err = 0x00#8 → s.wvalid = true → s.WeightsSound →
    (∀ k, k < s.npts.toNat → s.vs k = v) → ∃ t, exec .ldot s = .next t ∧ t.res = v) ∧
  ∀ s : State, s.err ≠ 0x00#8 → exec .ldot s = .next s.refusedCommand

/-- 44_lagrange R135: LAGR writes the weights, WVALID and RES in one command and leaves what LPREP followed by LDOT
leaves, with LDOT's response; otherwise it takes the fault of the point check, never STALE; halted it is refused. -/
def Obligations.LagrIsLprepThenLdot : Prop :=
  encode .lagr = 0x52000000#32 ∧
  (∀ s : State, Memory.wf s.mem → s.err = 0x00#8 → s.PointsGood →
    ∃ t, exec .lagr s = .next t ∧
      t = { s with
        mem := t.mem, wvalid := true, res := t.res,
        responses := s.responses ++ [⟨0x00#8, t.res.setWidth 32⟩] } ∧
      t.res = xorOver s.npts.toNat (fun k => gmul (s.vs k) (s.weightOf k)) ∧
      (∀ k, k < s.npts.toNat → t.lw k = s.weightOf k) ∧
      (∀ a, a < 0x300 ∨ 0x300 + s.npts.toNat ≤ a → Memory.read t.mem a = Memory.read s.mem a) ∧
      ∃ p u r, exec .lprep s = .next p ∧ exec .ldot p = .next u ∧ u = { t with responses := u.responses } ∧
        t.responses = s.responses ++ [r] ∧ u.responses = p.responses ++ [r]) ∧
  (∀ (s : State) (c : FaultCode) (hi lo : Byte), s.err = 0x00#8 → pcheck s = some (c, hi, lo) →
    c ≠ .stale ∧ exec .lagr s = .next (s.faulted (faultCode c) (encode .lagr) (hi ++ lo))) ∧
  ∀ s : State, s.err ≠ 0x00#8 → exec .lagr s = .next s.refusedCommand

/-- 44_lagrange R131, R136: for nonzero and pairwise distinct points no weight is zero, each is the product of the
numerators divided once by the product of the denominators, the weights sum to 0x01, and permuting the points permutes
the weights. -/
def Obligations.WeightsSumToOneAndFollowThePoints : Prop :=
  ∀ (x : Nat → Byte) (n : Nat), 1 ≤ n → (∀ k, k < n → x k ≠ 0x00#8) →
    (∀ k l, k < l → l < n → x k ≠ x l) →
    xorOver n (weight x n) = 0x01#8 ∧ (∀ k, k < n → weight x n k ≠ 0x00#8) ∧
    (∀ k, k < n → weight x n k = gdiv (prodExcept n k x) (prodExcept n k (fun l => x l ^^^ x k))) ∧
    ∀ p : Nat → Nat, (∀ k, k < n → p k < n) → (∀ k l, k < l → l < n → p k ≠ p l) →
      ∀ k, k < n → weight (fun l => x (p l)) n k = weight x n (p k)

/-- 44_lagrange R138, the headline of the block: EVALN then LAGR gives back CS[0] for distinct points; so do at least
as many values of one polynomial as it has coefficients, at any good points in any order; fewer in general do not. -/
def Obligations.InterpolationRecoversTheConstantTerm : Prop :=
  (∀ s t : State, Memory.wf s.mem → s.err = 0x00#8 → exec .evaln s = .next t → t.err = 0x00#8 →
    (∀ k l, k < l → l < s.npts.toNat → s.xs k ≠ s.xs l) →
    ∃ u, exec .lagr t = .next u ∧ u.err = 0x00#8 ∧ u.res = s.cs 0) ∧
  (∀ (s : State) (c : Nat → Byte) (m : Nat), Memory.wf s.mem → s.err = 0x00#8 → s.PointsGood → 1 ≤ m →
    m ≤ s.npts.toNat → (∀ k, k < s.npts.toNat → s.vs k = peval c m (s.xs k)) →
    ∃ u, exec .lagr s = .next u ∧ u.err = 0x00#8 ∧ u.res = c 0) ∧
  ∃ (s u : State) (c : Nat → Byte) (m : Nat), Memory.wf s.mem ∧ s.err = 0x00#8 ∧ s.PointsGood ∧ s.npts.toNat < m ∧
    (∀ k, k < s.npts.toNat → s.vs k = peval c m (s.xs k)) ∧ exec .lagr s = .next u ∧ u.err = 0x00#8 ∧ u.res ≠ c 0

/-! ## Whole-machine rules -/

/-- 10_state R30: whenever WVALID = 1 the points in use are good and LW holds their weights. Every step keeps it, from
every state that has it. The canonical form of the local space, premise and first conjunct, is the model's own (log
entry 6), not the rule's. -/
def Obligations.WeightsInvariantIsKept : Prop :=
  ∀ s t : State, Memory.wf s.mem → s.WeightsSound → step s = .next t → Memory.wf t.mem ∧ t.WeightsSound

/-- 10_state R14, R23, R24 and 60_exceptions R181, R185: every step keeps the fault record sound. -/
def Obligations.FaultRecordInvariantIsKept : Prop :=
  ∀ s t : State, s.RecordSound → step s = .next t → t.RecordSound

/-- Both invariants hold at reset, and so does the canonical form of the local space, which is the model's own (log
entry 6). -/
def Obligations.ResetStateIsSound : Prop := State.reset.Sound

/-- 60_exceptions R184, R186: a word that faults, legal or illegal, writes ERR, ECMD (that very word) and EIDX, answers
(code, 0), and has no partial effect: every other field and every byte stays. -/
def Obligations.FaultsChangeOnlyTheRecord : Prop :=
  ∀ (s t : State) (w : Word) (rest : List HostMove), s.pending = .command w :: rest → s.err = 0x00#8 →
    step s = .next t → t.err ≠ 0x00#8 →
    ∃ (c : FaultCode) (hi lo : Byte),
      t = ({ s with pending := rest } : State).faulted (faultCode c) w (hi ++ lo)

/-- 60_exceptions R182: which command can raise which fault, and that each marked one does from some state. -/
def Obligations.FaultsComeFromTheirCommands : Prop :=
  (∀ (i : Instr) (s t : State) (c : FaultCode), WellFormed i = true → s.err = 0x00#8 → exec i s = .next t →
    t.err = faultCode c → MayRaise i c) ∧
  RaisesSomewhere (.csrw 0x00#8 0x00#8) .access ∧ RaisesSomewhere (.st 0x300#10 0x00#8) .access ∧
  RaisesSomewhere (.gfdiv 0x01#8 0x00#8) .divZero ∧ RaisesSomewhere (.gfinv 0x00#8) .divZero ∧
  RaisesSomewhere (.eval 0x01#8) .badParam ∧ RaisesSomewhere (.eval 0x00#8) .zeroPoint ∧
  RaisesSomewhere .evaln .badParam ∧ RaisesSomewhere .evaln .zeroPoint ∧
  RaisesSomewhere .lprep .badParam ∧ RaisesSomewhere .lprep .zeroPoint ∧
  RaisesSomewhere .lprep .insufficient ∧ RaisesSomewhere .lprep .dupPoint ∧
  RaisesSomewhere .lagr .badParam ∧ RaisesSomewhere .lagr .zeroPoint ∧
  RaisesSomewhere .lagr .insufficient ∧ RaisesSomewhere .lagr .dupPoint ∧ RaisesSomewhere .ldot .stale

/-- 60_exceptions R187, R189: the halted state is quiescent. Until CLR or reset a step changes nothing but the two
ports, so the record of the first fault stays. -/
def Obligations.HaltedStateIsQuiescent : Prop :=
  ∀ s t : State, s.err ≠ 0x00#8 → step s = .next t →
    t = { s with pending := t.pending, responses := t.responses } ∨
    (∃ rest, s.pending = .command 0x01000000#32 :: rest) ∨ ∃ rest, s.pending = .reset :: rest

/-- 60_exceptions R188: a refused command, and an illegal word while halted, reads and writes no state and answers
(ERR, 0). -/
def Obligations.HaltedBlockRefusesOtherCommands : Prop :=
  ∀ s : State, s.err ≠ 0x00#8 →
    (∀ i : Instr, ¬ ExecutesHalted i → exec i s = .next s.refusedCommand) ∧
    ∀ (w : Word) (rest : List HostMove), s.pending = .command w :: rest → (∀ i, decode w ≠ .ok i) →
      step s = .next ({ s with pending := rest } : State).refusedCommand

/-- 60_exceptions R187 and 70_reset R217: a halted block does not let the arrays be read. Two halted states that differ
only in the arrays answer every word alike and stay different only in the arrays. -/
def Obligations.HaltedBlockHidesTheArrays : Prop :=
  ∀ (s t t' : State) (mem : Memory), s.err ≠ 0x00#8 → step s = .next t → step { s with mem := mem } = .next t' →
    t'.responses = t.responses ∧ t' = { t with mem := t'.mem }

/-- 20_memory R53, the writes of every command: a field or a byte that differs after a command is one the table lets it
write. -/
def Obligations.CommandsWriteOnlyWhatTheTableAllows : Prop :=
  ∀ (i : Instr) (s t : State), Memory.wf s.mem → exec i s = .next t →
    (∀ a, Memory.read t.mem a ≠ Memory.read s.mem a → StoresTo i s a) ∧
    (t.res ≠ s.res → WritesRes i ∨ i = .clr) ∧
    (t.npts ≠ s.npts → i = .clr ∨ ∃ val, i = .csrw 0x03#8 val) ∧
    (t.m ≠ s.m → i = .clr ∨ ∃ val, i = .csrw 0x04#8 val) ∧
    (t.wvalid ≠ s.wvalid → t.err = 0x00#8 ∧ t.wvalid = wvalidAfter i s) ∧
    (t.ie ≠ s.ie → s.err = 0x00#8 ∧ ∃ val : Byte, i = .csrw 0x02#8 val ∧ t.ie = val.getLsbD 0) ∧
    (t.err ≠ s.err → i = .clr ∨ s.err = 0x00#8) ∧
    ((t.ecmd ≠ s.ecmd ∨ t.eidx ≠ s.eidx) → i = .clr ∨ (s.err = 0x00#8 ∧ t.err ≠ 0x00#8)) ∧
    t.pending = s.pending

/-- 20_memory R54: an engine command neither reads nor writes an entry at or above its bound. From two states that
agree in use it answers alike and leaves states that agree in use, and every entry at or above the bounds survives. -/
def Obligations.EnginesIgnoreEntriesNotInUse : Prop :=
  ∀ (i : Instr) (s s' : State), EngineCommand i → Memory.wf s.mem → Memory.wf s'.mem → SameInUse s s' →
    ∃ t t', exec i s = .next t ∧ exec i s' = .next t' ∧ SameInUse t t' ∧
      (∀ (b : Bank) (k : Nat), b ≠ .cs → s.npts.toNat ≤ k → k < 256 → t.entry b k = s.entry b k) ∧
      ∀ k, k < 256 → t.cs k = s.cs k

/-- 10_state R13: WVALID after every command, its place in STATUS, and its reset value. -/
def Obligations.WvalidFollowsItsRule : Prop :=
  (∀ (i : Instr) (s t : State), exec i s = .next t →
    t.wvalid = if t.err = 0x00#8 then wvalidAfter i s else s.wvalid) ∧
  (∀ s : State, s.err = 0x00#8 → s.wvalid = false → ∃ t, exec .ldot s = .next t ∧ t.err = 0x08#8 ∧ t.wvalid = false) ∧
  (∀ s : State, ∃ v, csrValue 0x01#8 s = some v ∧ v.getLsbD 8 = s.wvalid) ∧ State.reset.wvalid = false

/-- 10_state R11: RES is written by exactly the result commands when they complete, is zeroed by CLR and by reset, and
is no command's operand: from two states that differ only in RES every command but CSRR of RES answers alike and
leaves states that differ at most in RES. -/
def Obligations.ResIsWrittenByResultCommandsOnly : Prop :=
  (∀ (i : Instr) (s t : State), exec i s = .next t →
    (WritesRes i → s.err = 0x00#8 → t.err = 0x00#8 →
      t.responses = s.responses ++ [⟨0x00#8, t.res.setWidth 32⟩]) ∧
    (i = .clr → t.res = 0x00#8) ∧
    (¬ WritesRes i → i ≠ .clr → t.res = s.res) ∧ (t.err ≠ 0x00#8 → t.res = s.res)) ∧
  (∀ (i : Instr) (s t t' : State) (v : Byte), i ≠ .csrr 0x05#8 → exec i s = .next t →
    exec i { s with res := v } = .next t' → t' = { t with res := t'.res }) ∧
  State.reset.res = 0x00#8 ∧ (∀ (s : State) (rest : List HostMove), s.pending = .reset :: rest →
    ∃ t, step s = .next t ∧ t.res = 0x00#8)

/-- 40_control R87: the response of every command that completes, and (ERR, 0) for a fault and a refusal. -/
def Obligations.ResponsesFollowTheirTable : Prop :=
  ∀ (i : Instr) (s : State), WellFormed i = true → ∃ t e d, exec i s = .next t ∧
    t.responses = s.responses ++ [⟨e, d⟩] ∧ e = t.err ∧
    (t.err = 0x00#8 → d = dataAfter i s t) ∧
    (s.err ≠ 0x00#8 → ExecutesHalted i → d = dataAfter i s t) ∧
    (t.err ≠ 0x00#8 → ¬ (s.err ≠ 0x00#8 ∧ ExecutesHalted i) → d = 0x00000000#32) ∧
    (s.err ≠ 0x00#8 → ExecutesHalted i → i ≠ .clr → e = s.err) ∧ (i = .clr → e = 0x00#8)

/-- 60_exceptions R193: `irq` is IE and ERR not 0x00; it is high after a fault exactly when IE is set, and low after CLR
and after a reset pulse. -/
def Obligations.IrqIsIeAndFault : Prop :=
  (∀ s : State, s.irq = true ↔ s.ie = true ∧ s.err ≠ 0x00#8) ∧
  (∀ (i : Instr) (s t : State), s.err = 0x00#8 → exec i s = .next t → t.err ≠ 0x00#8 → t.irq = s.ie) ∧
  (∀ s t : State, exec .clr s = .next t → t.irq = false) ∧
  ∀ (s t : State) (rest : List HostMove), s.pending = .reset :: rest → step s = .next t → t.irq = false

/-! ## The host procedures -/

/-- 45_host_protocol R151: the layout of a share record reads back, secret_len big-endian at offsets 18 and 19, the
share_id at offset 20, the value from 21 on. -/
def Obligations.ShareRecordLayoutReadsBack : Prop :=
  ∀ r : ShareRecord, parseRecord (recordBytes r) = some r ∧ (recordBytes r).length = 21 + r.value.length ∧
    (recordBytes r)[16]? = some r.header.hashId ∧ (recordBytes r)[17]? = some r.header.threshold ∧
    (recordBytes r)[18]? = some (r.header.secretLen.extractLsb' 8 8) ∧
    (recordBytes r)[19]? = some (r.header.secretLen.extractLsb' 0 8) ∧
    (recordBytes r)[20]? = some r.shareId ∧ (recordBytes r).drop 21 = r.value

/-- 45_host_protocol R176: decoding hex, of either case, gives the encoded bytes back. -/
def Obligations.HexTransportReadsBack : Prop :=
  ∀ bytes : List Byte, fromHex (toHex bytes) = some bytes ∧
    fromHex ((toHex bytes).map (fun c => if 97 ≤ c.toNat then Char.ofNat (c.toNat - 32) else c)) = some bytes

/-- 45_host_protocol R155, R168: split refuses M = 0, N = 0 and M > N, each under its own name, before it takes any
random byte. Which one it names where several fail is the model's choice (log entry 12). -/
def Obligations.SplitChecksBeforeItDraws : Prop :=
  ∀ (m n : Byte) (secret : List Byte) (identifier : Vector Byte 16) (draws : List Byte) (s : State),
    m = 0x00#8 ∨ n = 0x00#8 ∨ n.toNat < m.toNat →
      ∃ e : HostError, (hostSplit m n secret identifier draws s).result = .error e ∧
        (hostSplit m n secret identifier draws s).draws = draws ∧ e.kind = .precondition ∧
        e = if m = 0x00#8 then .thresholdZero else if n = 0x00#8 then .shareCountZero else .thresholdAboveCount

/-- 45_host_protocol R163, R168, R173: too few shares that pass the checks before fail with the format error of that
name, and no secret is ever returned from fewer shares than a header among them declares. -/
def Obligations.TooFewSharesGiveNoSecret : Prop :=
  (∀ (first : List Byte) (rest : List (List Byte)) (h : Header) (s : State), parseHeader first = some h →
    (∀ b ∈ first :: rest, b.length = first.length ∧ b.take 20 = first.take 20 ∧ b[20]? ≠ some 0x00#8) →
    (first :: rest).length < h.threshold.toNat →
    (hostReconstruct (first :: rest) s).1 = .error .insufficientShares) ∧
  HostError.kind .insufficientShares = .format ∧
  ∀ (shares : List (List Byte)) (b : List Byte) (h : Header) (s : State), b ∈ shares → parseHeader b = some h →
    shares.length < h.threshold.toNat → ∃ e, (hostReconstruct shares s).1 = .error e

/-- 45_host_protocol R170: every split and every reconstruct leaves the block wiped, on success and on failure. -/
def Obligations.HostCallsEndWithTheBlockWiped : Prop :=
  (∀ (m n : Byte) (secret : List Byte) (identifier : Vector Byte 16) (draws : List Byte) (s : State),
    ∃ u : State, (hostSplit m n secret identifier draws s).block =
      { State.reset with ie := u.ie, pending := s.pending, responses := u.responses }) ∧
  ∀ (shares : List (List Byte)) (s : State), ∃ u : State, (hostReconstruct shares s).2 =
    { State.reset with ie := u.ie, pending := s.pending, responses := u.responses }
end

