-- ==== Sys2Proof/Laws/Encoding.lean ====
section
/-! SUPPORT. The fields of a word built by each format of 30_encoding R62 to R66, and a word as its four bytes. -/

namespace Sys2Proof

/-! ## The opcode of every format -/

@[simp] theorem wordOp_formatN (op : Byte) : wordOp (formatN op) = op := by
  ext i hi
  have h : 24 + i < 32 := by omega
  simp [wordOp, formatN, h, hi]

@[simp] theorem wordOp_formatA (op a : Byte) : wordOp (formatA op a) = op := by
  ext i hi
  have h : 24 + i < 32 := by omega
  simp [wordOp, formatA, h, hi, BitVec.getLsbD_of_ge a (24 + i) (by omega)]

@[simp] theorem wordOp_formatAB (op a b : Byte) : wordOp (formatAB op a b) = op := by
  ext i hi
  have h : 24 + i < 32 := by omega
  simp [wordOp, formatAB, h, hi, BitVec.getLsbD_of_ge a (24 + i - 8) (by omega),
    BitVec.getLsbD_of_ge b (24 + i) (by omega)]

@[simp] theorem wordOp_formatM (op : Byte) (addr : BitVec 10) (data : Byte) :
    wordOp (formatM op addr data) = op := by
  ext i hi
  have h : 24 + i < 32 := by omega
  simp [wordOp, formatM, h, hi, BitVec.getLsbD_of_ge addr (24 + i - 8) (by omega),
    BitVec.getLsbD_of_ge data (24 + i) (by omega)]

@[simp] theorem wordOp_formatC (op csr val : Byte) : wordOp (formatC op csr val) = op :=
  wordOp_formatAB op csr val

/-! ## The operand fields -/

@[simp] theorem wordLow_formatA (op a : Byte) : wordLow (formatA op a) = a := by
  ext i hi
  simp [wordLow, formatA, hi, show i < 24 by omega, show i < 32 by omega]

@[simp] theorem wordLow_formatAB (op a b : Byte) : wordLow (formatAB op a b) = b := by
  ext i hi
  simp [wordLow, formatAB, hi, show i < 24 by omega, show i < 32 by omega]

@[simp] theorem wordMid_formatAB (op a b : Byte) : wordMid (formatAB op a b) = a := by
  ext i hi
  simp [wordMid, formatAB, hi, show 8 + i < 24 by omega, show 8 + i < 32 by omega]

@[simp] theorem wordLow_formatC (op csr val : Byte) : wordLow (formatC op csr val) = val :=
  wordLow_formatAB op csr val

@[simp] theorem wordMid_formatC (op csr val : Byte) : wordMid (formatC op csr val) = csr :=
  wordMid_formatAB op csr val

@[simp] theorem wordLow_formatM (op : Byte) (addr : BitVec 10) (data : Byte) :
    wordLow (formatM op addr data) = data := by
  ext i hi
  simp [wordLow, formatM, hi, show i < 24 by omega, show i < 32 by omega]

@[simp] theorem wordAddr_formatM (op : Byte) (addr : BitVec 10) (data : Byte) :
    wordAddr (formatM op addr data) = addr := by
  ext i hi
  simp [wordAddr, formatM, hi, show 8 + i < 24 by omega, show 8 + i < 32 by omega]

/-! ## A word on the byte channel (20_memory R43) -/

/-- The four bytes of a word, most significant first, give the word back. -/
theorem wordOfBytes_wordBytes (w : Word) :
    wordOfBytes (w.extractLsb' 24 8) (w.extractLsb' 16 8) (w.extractLsb' 8 8) (w.extractLsb' 0 8) = w := by
  ext i hi
  rw [← BitVec.getLsbD_eq_getElem hi]
  simp only [wordOfBytes, BitVec.getLsbD_or, BitVec.getLsbD_shiftLeft, BitVec.getLsbD_setWidth,
    BitVec.getLsbD_extractLsb']
  rcases (by omega : i < 8 ∨ 8 ≤ i ∧ i < 16 ∨ 16 ≤ i ∧ i < 24 ∨ 24 ≤ i) with h | h | h | h
  · simp [h, hi, show i < 24 by omega, show i < 16 by omega]
  · simp [h, hi, show i < 24 by omega, show ¬ i < 8 by omega, show i - 8 < 8 by omega, show i - 8 < 32 by omega, show 8 + (i - 8) = i by omega]
  · simp [h, hi, show ¬ i < 16 by omega, show ¬ i < 8 by omega, show i - 16 < 8 by omega, show i - 16 < 32 by omega, show ¬ i - 8 < 8 by omega,
      show 16 + (i - 16) = i by omega]
  · simp [hi, show ¬ i < 24 by omega, show ¬ i < 16 by omega, show ¬ i < 8 by omega, show i - 24 < 8 by omega, show i - 24 < 32 by omega,
      show ¬ i - 16 < 8 by omega, show ¬ i - 8 < 8 by omega, show 24 + (i - 24) = i by omega]

/-- Decoding the bytes of a word is decoding the word. -/
theorem decodeBytes_wordBytes (w : Word) (rest : List Byte) :
    decodeBytes (wordBytes w ++ rest) =
      match decode w with
      | .ok i => .ok (i, rest)
      | .error e => .error e := by
  cases h : decode w <;> simp [wordBytes, decodeBytes, wordOfBytes_wordBytes, h]

/-- The table's word goes to the decoder as it stands. -/
theorem decodeTableWord_eq (nbits w : Nat) : decodeTableWord nbits w = (decode (tableWord nbits w)).toOption := by
  have h := decodeBytes_wordBytes (tableWord nbits w) []
  rw [List.append_nil] at h
  rw [decodeTableWord, h]
  cases decode (tableWord nbits w) <;> rfl

end Sys2Proof
end

