-- ==== Sys2Proof/Laws/State.lean ====
section
/-! SUPPORT. What every named update leaves in every field of the state, each true by unfolding. -/

namespace Sys2Proof.Machine

variable (s : State)

@[simp] theorem State.setRes_res (v : Byte) : (s.setRes v).res = v := rfl
@[simp] theorem State.setRes_npts (v : Byte) : (s.setRes v).npts = s.npts := rfl
@[simp] theorem State.setRes_m (v : Byte) : (s.setRes v).m = s.m := rfl
@[simp] theorem State.setRes_err (v : Byte) : (s.setRes v).err = s.err := rfl
@[simp] theorem State.setRes_ecmd (v : Byte) : (s.setRes v).ecmd = s.ecmd := rfl
@[simp] theorem State.setRes_eidx (v : Byte) : (s.setRes v).eidx = s.eidx := rfl
@[simp] theorem State.setRes_wvalid (v : Byte) : (s.setRes v).wvalid = s.wvalid := rfl
@[simp] theorem State.setRes_ie (v : Byte) : (s.setRes v).ie = s.ie := rfl
@[simp] theorem State.setRes_mem (v : Byte) : (s.setRes v).mem = s.mem := rfl
@[simp] theorem State.setRes_pending (v : Byte) : (s.setRes v).pending = s.pending := rfl
@[simp] theorem State.setRes_responses (v : Byte) : (s.setRes v).responses = s.responses := rfl

@[simp] theorem State.setNpts_res (v : Byte) : (s.setNpts v).res = s.res := rfl
@[simp] theorem State.setNpts_npts (v : Byte) : (s.setNpts v).npts = v := rfl
@[simp] theorem State.setNpts_m (v : Byte) : (s.setNpts v).m = s.m := rfl
@[simp] theorem State.setNpts_err (v : Byte) : (s.setNpts v).err = s.err := rfl
@[simp] theorem State.setNpts_ecmd (v : Byte) : (s.setNpts v).ecmd = s.ecmd := rfl
@[simp] theorem State.setNpts_eidx (v : Byte) : (s.setNpts v).eidx = s.eidx := rfl
@[simp] theorem State.setNpts_wvalid (v : Byte) : (s.setNpts v).wvalid = s.wvalid := rfl
@[simp] theorem State.setNpts_ie (v : Byte) : (s.setNpts v).ie = s.ie := rfl
@[simp] theorem State.setNpts_mem (v : Byte) : (s.setNpts v).mem = s.mem := rfl
@[simp] theorem State.setNpts_pending (v : Byte) : (s.setNpts v).pending = s.pending := rfl
@[simp] theorem State.setNpts_responses (v : Byte) : (s.setNpts v).responses = s.responses := rfl

@[simp] theorem State.setM_res (v : Byte) : (s.setM v).res = s.res := rfl
@[simp] theorem State.setM_npts (v : Byte) : (s.setM v).npts = s.npts := rfl
@[simp] theorem State.setM_m (v : Byte) : (s.setM v).m = v := rfl
@[simp] theorem State.setM_err (v : Byte) : (s.setM v).err = s.err := rfl
@[simp] theorem State.setM_ecmd (v : Byte) : (s.setM v).ecmd = s.ecmd := rfl
@[simp] theorem State.setM_eidx (v : Byte) : (s.setM v).eidx = s.eidx := rfl
@[simp] theorem State.setM_wvalid (v : Byte) : (s.setM v).wvalid = s.wvalid := rfl
@[simp] theorem State.setM_ie (v : Byte) : (s.setM v).ie = s.ie := rfl
@[simp] theorem State.setM_mem (v : Byte) : (s.setM v).mem = s.mem := rfl
@[simp] theorem State.setM_pending (v : Byte) : (s.setM v).pending = s.pending := rfl
@[simp] theorem State.setM_responses (v : Byte) : (s.setM v).responses = s.responses := rfl

@[simp] theorem State.setIe_res (v : Bool) : (s.setIe v).res = s.res := rfl
@[simp] theorem State.setIe_npts (v : Bool) : (s.setIe v).npts = s.npts := rfl
@[simp] theorem State.setIe_m (v : Bool) : (s.setIe v).m = s.m := rfl
@[simp] theorem State.setIe_err (v : Bool) : (s.setIe v).err = s.err := rfl
@[simp] theorem State.setIe_ecmd (v : Bool) : (s.setIe v).ecmd = s.ecmd := rfl
@[simp] theorem State.setIe_eidx (v : Bool) : (s.setIe v).eidx = s.eidx := rfl
@[simp] theorem State.setIe_wvalid (v : Bool) : (s.setIe v).wvalid = s.wvalid := rfl
@[simp] theorem State.setIe_ie (v : Bool) : (s.setIe v).ie = v := rfl
@[simp] theorem State.setIe_mem (v : Bool) : (s.setIe v).mem = s.mem := rfl
@[simp] theorem State.setIe_pending (v : Bool) : (s.setIe v).pending = s.pending := rfl
@[simp] theorem State.setIe_responses (v : Bool) : (s.setIe v).responses = s.responses := rfl

@[simp] theorem State.setWvalid_res (v : Bool) : (s.setWvalid v).res = s.res := rfl
@[simp] theorem State.setWvalid_npts (v : Bool) : (s.setWvalid v).npts = s.npts := rfl
@[simp] theorem State.setWvalid_m (v : Bool) : (s.setWvalid v).m = s.m := rfl
@[simp] theorem State.setWvalid_err (v : Bool) : (s.setWvalid v).err = s.err := rfl
@[simp] theorem State.setWvalid_ecmd (v : Bool) : (s.setWvalid v).ecmd = s.ecmd := rfl
@[simp] theorem State.setWvalid_eidx (v : Bool) : (s.setWvalid v).eidx = s.eidx := rfl
@[simp] theorem State.setWvalid_wvalid (v : Bool) : (s.setWvalid v).wvalid = v := rfl
@[simp] theorem State.setWvalid_ie (v : Bool) : (s.setWvalid v).ie = s.ie := rfl
@[simp] theorem State.setWvalid_mem (v : Bool) : (s.setWvalid v).mem = s.mem := rfl
@[simp] theorem State.setWvalid_pending (v : Bool) : (s.setWvalid v).pending = s.pending := rfl
@[simp] theorem State.setWvalid_responses (v : Bool) : (s.setWvalid v).responses = s.responses := rfl

@[simp] theorem State.clearWvalid_res : (s.clearWvalid).res = s.res := rfl
@[simp] theorem State.clearWvalid_npts : (s.clearWvalid).npts = s.npts := rfl
@[simp] theorem State.clearWvalid_m : (s.clearWvalid).m = s.m := rfl
@[simp] theorem State.clearWvalid_err : (s.clearWvalid).err = s.err := rfl
@[simp] theorem State.clearWvalid_ecmd : (s.clearWvalid).ecmd = s.ecmd := rfl
@[simp] theorem State.clearWvalid_eidx : (s.clearWvalid).eidx = s.eidx := rfl
@[simp] theorem State.clearWvalid_wvalid : (s.clearWvalid).wvalid = false := rfl
@[simp] theorem State.clearWvalid_ie : (s.clearWvalid).ie = s.ie := rfl
@[simp] theorem State.clearWvalid_mem : (s.clearWvalid).mem = s.mem := rfl
@[simp] theorem State.clearWvalid_pending : (s.clearWvalid).pending = s.pending := rfl
@[simp] theorem State.clearWvalid_responses : (s.clearWvalid).responses = s.responses := rfl

@[simp] theorem State.record_res (c : Byte) (w : Word) (d : BitVec 16) : (s.record c w d).res = s.res := rfl
@[simp] theorem State.record_npts (c : Byte) (w : Word) (d : BitVec 16) : (s.record c w d).npts = s.npts := rfl
@[simp] theorem State.record_m (c : Byte) (w : Word) (d : BitVec 16) : (s.record c w d).m = s.m := rfl
@[simp] theorem State.record_err (c : Byte) (w : Word) (d : BitVec 16) : (s.record c w d).err = c := rfl
@[simp] theorem State.record_ecmd (c : Byte) (w : Word) (d : BitVec 16) : (s.record c w d).ecmd = w := rfl
@[simp] theorem State.record_eidx (c : Byte) (w : Word) (d : BitVec 16) : (s.record c w d).eidx = d := rfl
@[simp] theorem State.record_wvalid (c : Byte) (w : Word) (d : BitVec 16) : (s.record c w d).wvalid = s.wvalid := rfl
@[simp] theorem State.record_ie (c : Byte) (w : Word) (d : BitVec 16) : (s.record c w d).ie = s.ie := rfl
@[simp] theorem State.record_mem (c : Byte) (w : Word) (d : BitVec 16) : (s.record c w d).mem = s.mem := rfl
@[simp] theorem State.record_pending (c : Byte) (w : Word) (d : BitVec 16) : (s.record c w d).pending = s.pending := rfl
@[simp] theorem State.record_responses (c : Byte) (w : Word) (d : BitVec 16) : (s.record c w d).responses = s.responses := rfl

@[simp] theorem State.answer_res (r : Response) : (s.answer r).res = s.res := rfl
@[simp] theorem State.answer_npts (r : Response) : (s.answer r).npts = s.npts := rfl
@[simp] theorem State.answer_m (r : Response) : (s.answer r).m = s.m := rfl
@[simp] theorem State.answer_err (r : Response) : (s.answer r).err = s.err := rfl
@[simp] theorem State.answer_ecmd (r : Response) : (s.answer r).ecmd = s.ecmd := rfl
@[simp] theorem State.answer_eidx (r : Response) : (s.answer r).eidx = s.eidx := rfl
@[simp] theorem State.answer_wvalid (r : Response) : (s.answer r).wvalid = s.wvalid := rfl
@[simp] theorem State.answer_ie (r : Response) : (s.answer r).ie = s.ie := rfl
@[simp] theorem State.answer_mem (r : Response) : (s.answer r).mem = s.mem := rfl
@[simp] theorem State.answer_pending (r : Response) : (s.answer r).pending = s.pending := rfl
@[simp] theorem State.answer_responses (r : Response) : (s.answer r).responses = s.responses ++ [r] := rfl

@[simp] theorem State.withPending_res (p : List HostMove) : (s.withPending p).res = s.res := rfl
@[simp] theorem State.withPending_npts (p : List HostMove) : (s.withPending p).npts = s.npts := rfl
@[simp] theorem State.withPending_m (p : List HostMove) : (s.withPending p).m = s.m := rfl
@[simp] theorem State.withPending_err (p : List HostMove) : (s.withPending p).err = s.err := rfl
@[simp] theorem State.withPending_ecmd (p : List HostMove) : (s.withPending p).ecmd = s.ecmd := rfl
@[simp] theorem State.withPending_eidx (p : List HostMove) : (s.withPending p).eidx = s.eidx := rfl
@[simp] theorem State.withPending_wvalid (p : List HostMove) : (s.withPending p).wvalid = s.wvalid := rfl
@[simp] theorem State.withPending_ie (p : List HostMove) : (s.withPending p).ie = s.ie := rfl
@[simp] theorem State.withPending_mem (p : List HostMove) : (s.withPending p).mem = s.mem := rfl
@[simp] theorem State.withPending_pending (p : List HostMove) : (s.withPending p).pending = p := rfl
@[simp] theorem State.withPending_responses (p : List HostMove) : (s.withPending p).responses = s.responses := rfl

@[simp] theorem State.setEntry_res (b : Bank) (k : Nat) (v : Byte) : (s.setEntry b k v).res = s.res := rfl
@[simp] theorem State.setEntry_npts (b : Bank) (k : Nat) (v : Byte) : (s.setEntry b k v).npts = s.npts := rfl
@[simp] theorem State.setEntry_m (b : Bank) (k : Nat) (v : Byte) : (s.setEntry b k v).m = s.m := rfl
@[simp] theorem State.setEntry_err (b : Bank) (k : Nat) (v : Byte) : (s.setEntry b k v).err = s.err := rfl
@[simp] theorem State.setEntry_ecmd (b : Bank) (k : Nat) (v : Byte) : (s.setEntry b k v).ecmd = s.ecmd := rfl
@[simp] theorem State.setEntry_eidx (b : Bank) (k : Nat) (v : Byte) : (s.setEntry b k v).eidx = s.eidx := rfl
@[simp] theorem State.setEntry_wvalid (b : Bank) (k : Nat) (v : Byte) : (s.setEntry b k v).wvalid = s.wvalid := rfl
@[simp] theorem State.setEntry_ie (b : Bank) (k : Nat) (v : Byte) : (s.setEntry b k v).ie = s.ie := rfl
@[simp] theorem State.setEntry_mem (b : Bank) (k : Nat) (v : Byte) : (s.setEntry b k v).mem = Memory.write s.mem (bankBase b + k) v := rfl
@[simp] theorem State.setEntry_pending (b : Bank) (k : Nat) (v : Byte) : (s.setEntry b k v).pending = s.pending := rfl
@[simp] theorem State.setEntry_responses (b : Bank) (k : Nat) (v : Byte) : (s.setEntry b k v).responses = s.responses := rfl

@[simp] theorem State.fillBank_res (b : Bank) (f : Nat → Byte) (n : Nat) : (s.fillBank b f n).res = s.res := rfl
@[simp] theorem State.fillBank_npts (b : Bank) (f : Nat → Byte) (n : Nat) : (s.fillBank b f n).npts = s.npts := rfl
@[simp] theorem State.fillBank_m (b : Bank) (f : Nat → Byte) (n : Nat) : (s.fillBank b f n).m = s.m := rfl
@[simp] theorem State.fillBank_err (b : Bank) (f : Nat → Byte) (n : Nat) : (s.fillBank b f n).err = s.err := rfl
@[simp] theorem State.fillBank_ecmd (b : Bank) (f : Nat → Byte) (n : Nat) : (s.fillBank b f n).ecmd = s.ecmd := rfl
@[simp] theorem State.fillBank_eidx (b : Bank) (f : Nat → Byte) (n : Nat) : (s.fillBank b f n).eidx = s.eidx := rfl
@[simp] theorem State.fillBank_wvalid (b : Bank) (f : Nat → Byte) (n : Nat) : (s.fillBank b f n).wvalid = s.wvalid := rfl
@[simp] theorem State.fillBank_ie (b : Bank) (f : Nat → Byte) (n : Nat) : (s.fillBank b f n).ie = s.ie := rfl
@[simp] theorem State.fillBank_mem (b : Bank) (f : Nat → Byte) (n : Nat) : (s.fillBank b f n).mem = Memory.fill s.mem (bankBase b) f n := rfl
@[simp] theorem State.fillBank_pending (b : Bank) (f : Nat → Byte) (n : Nat) : (s.fillBank b f n).pending = s.pending := rfl
@[simp] theorem State.fillBank_responses (b : Bank) (f : Nat → Byte) (n : Nat) : (s.fillBank b f n).responses = s.responses := rfl

@[simp] theorem State.wipe_res : (s.wipe).res = 0x00#8 := rfl
@[simp] theorem State.wipe_npts : (s.wipe).npts = 0x00#8 := rfl
@[simp] theorem State.wipe_m : (s.wipe).m = 0x00#8 := rfl
@[simp] theorem State.wipe_err : (s.wipe).err = 0x00#8 := rfl
@[simp] theorem State.wipe_ecmd : (s.wipe).ecmd = 0x00000000#32 := rfl
@[simp] theorem State.wipe_eidx : (s.wipe).eidx = 0x0000#16 := rfl
@[simp] theorem State.wipe_wvalid : (s.wipe).wvalid = false := rfl
@[simp] theorem State.wipe_ie : (s.wipe).ie = s.ie := rfl
@[simp] theorem State.wipe_mem : (s.wipe).mem = [] := rfl
@[simp] theorem State.wipe_pending : (s.wipe).pending = s.pending := rfl
@[simp] theorem State.wipe_responses : (s.wipe).responses = s.responses := rfl

@[simp] theorem State.prepare_res : (s.prepare).res = s.res := rfl
@[simp] theorem State.prepare_npts : (s.prepare).npts = s.npts := rfl
@[simp] theorem State.prepare_m : (s.prepare).m = s.m := rfl
@[simp] theorem State.prepare_err : (s.prepare).err = s.err := rfl
@[simp] theorem State.prepare_ecmd : (s.prepare).ecmd = s.ecmd := rfl
@[simp] theorem State.prepare_eidx : (s.prepare).eidx = s.eidx := rfl
@[simp] theorem State.prepare_wvalid : (s.prepare).wvalid = true := rfl
@[simp] theorem State.prepare_ie : (s.prepare).ie = s.ie := rfl
@[simp] theorem State.prepare_mem : (s.prepare).mem = Memory.fill s.mem (bankBase .lw) s.weightOf s.npts.toNat := rfl
@[simp] theorem State.prepare_pending : (s.prepare).pending = s.pending := rfl
@[simp] theorem State.prepare_responses : (s.prepare).responses = s.responses := rfl

end Sys2Proof.Machine
end

