-- ==== Sys2Proof/Laws/Memory.lean ====
section
/-! SUPPORT. The laws of the local space: reading after writing, and that every memory operation keeps the canonical
form. -/

namespace Sys2Proof.Machine

/-- The sorted half of the canonical form. -/
abbrev Memory.Sorted (mem : Memory) : Prop := mem.Pairwise (fun c d => c.1 < d.1)

theorem Memory.wf_nil : Memory.wf [] := by simp [Memory.wf]

@[simp] theorem Memory.read_nil (a : Nat) : Memory.read [] a = 0x00#8 := rfl

theorem Memory.wf.sorted {mem : Memory} (h : Memory.wf mem) : Memory.Sorted mem := h.1

/-- An address below every listed one is not listed. -/
theorem Memory.read_of_forall_lt {mem : Memory} {a : Nat} (h : ∀ c ∈ mem, a < c.1) :
    Memory.read mem a = 0x00#8 := by
  induction mem with
  | nil => rfl
  | cons c rest ih =>
    have hc := h c (by simp)
    have ne : c.1 ≠ a := by omega
    rw [Memory.read, if_neg ne]
    exact ih (fun d hd => h d (by simp [hd]))

/-- Reading after a write: the byte written, and every other byte as before. -/
theorem Memory.read_write {mem : Memory} (h : Memory.Sorted mem) (a b : Nat) (v : Byte) :
    Memory.read (Memory.write mem a v) b = if b = a then v else Memory.read mem b := by
  induction mem with
  | nil =>
    rw [Memory.write]
    by_cases hb : b = a
    · subst hb
      split <;> simp_all [Memory.read]
    · have : a ≠ b := fun e => hb e.symm
      split <;> simp [Memory.read, this]
  | cons c rest ih =>
    obtain ⟨k, u⟩ := c
    obtain ⟨hk, hs⟩ := List.pairwise_cons.mp h
    have hrest (x : Nat) (hx : x ≤ k) : Memory.read rest x = 0x00#8 :=
      Memory.read_of_forall_lt (fun d hd => by have := hk d hd; simp at this; omega)
    unfold Memory.write
    split
    · rename_i hlt
      split <;> by_cases hb : b = a
      · subst hb
        have : k ≠ b := by omega
        simp_all [Memory.read]
        exact hrest b (by omega)
      · simp [hb]
      · simp [Memory.read, hb]
      · have : a ≠ b := fun e => hb e.symm
        simp [Memory.read, hb, this]
    · split
      · rename_i _ he
        subst he
        split <;> by_cases hb : b = a
        · subst hb
          simp_all
        · have : a ≠ b := fun e => hb e.symm
          simp [Memory.read, hb, this]
        · simp [Memory.read, hb]
        · have : a ≠ b := fun e => hb e.symm
          simp [Memory.read, hb, this]
      · by_cases hkb : k = b
        · subst hkb
          have : k ≠ a := by omega
          simp [Memory.read, this]
        · simp only [Memory.read, hkb, if_false]
          exact ih hs

/-- What a write can list: the address written, and what was listed before. -/
theorem Memory.mem_write {mem : Memory} {a : Nat} {v : Byte} {c : Host.Cell}
    (h : c ∈ Memory.write mem a v) : (c = (a, v) ∧ v ≠ 0x00#8) ∨ c ∈ mem := by
  induction mem with
  | nil => unfold Memory.write at h; split at h <;> simp_all
  | cons d rest ih =>
    obtain ⟨k, u⟩ := d
    unfold Memory.write at h
    split at h
    · split at h
      · exact .inr h
      · rcases List.mem_cons.mp h with rfl | h
        · exact .inl ⟨rfl, by assumption⟩
        · exact .inr h
    · split at h
      · split at h
        · exact .inr (List.mem_cons_of_mem _ h)
        · rcases List.mem_cons.mp h with rfl | h
          · exact .inl ⟨rfl, by assumption⟩
          · exact .inr (List.mem_cons_of_mem _ h)
      · rcases List.mem_cons.mp h with rfl | h
        · exact .inr (by simp)
        · rcases ih h with h | h
          · exact .inl h
          · exact .inr (List.mem_cons_of_mem _ h)

theorem Memory.sorted_write {mem : Memory} (h : Memory.Sorted mem) (a : Nat) (v : Byte) :
    Memory.Sorted (Memory.write mem a v) := by
  induction mem with
  | nil => unfold Memory.write; split <;> simp [Memory.Sorted]
  | cons c rest ih =>
    obtain ⟨k, u⟩ := c
    obtain ⟨hk, hs⟩ := List.pairwise_cons.mp h
    unfold Memory.write
    split
    · rename_i hlt
      split
      · exact h
      · refine List.pairwise_cons.mpr ⟨fun d hd => ?_, h⟩
        rcases List.mem_cons.mp hd with rfl | hd
        · exact hlt
        · exact lt_trans hlt (hk d hd)
    · split
      · rename_i he
        subst he
        split
        · exact hs
        · exact List.pairwise_cons.mpr ⟨hk, hs⟩
      · refine List.pairwise_cons.mpr ⟨fun d hd => ?_, ih hs⟩
        rcases Memory.mem_write hd with ⟨rfl, -⟩ | hd
        · show k < a
          omega
        · exact hk d hd

/-- A write to the local space keeps the canonical form. -/
theorem Memory.wf_write {mem : Memory} (h : Memory.wf mem) {a : Nat} (ha : a < Config.localSize) (v : Byte) :
    Memory.wf (Memory.write mem a v) := by
  refine ⟨Memory.sorted_write h.1 a v, fun c hc => ?_⟩
  rcases Memory.mem_write hc with ⟨rfl, hv⟩ | hc
  · exact ⟨ha, hv⟩
  · exact h.2 c hc

theorem Memory.sorted_fill {mem : Memory} (h : Memory.Sorted mem) (base : Nat) (f : Nat → Byte) (n : Nat) :
    Memory.Sorted (Memory.fill mem base f n) := by
  induction n with
  | zero => exact h
  | succ n ih => exact Memory.sorted_write ih _ _

/-- Reading after a fill: the bytes written, and every other byte as before. -/
theorem Memory.read_fill {mem : Memory} (h : Memory.Sorted mem) (base : Nat) (f : Nat → Byte) (n b : Nat) :
    Memory.read (Memory.fill mem base f n) b =
      if base ≤ b ∧ b < base + n then f (b - base) else Memory.read mem b := by
  induction n with
  | zero =>
    rw [if_neg (by omega)]
    rfl
  | succ n ih =>
    rw [Memory.fill, Memory.read_write (Memory.sorted_fill h base f n), ih]
    by_cases hb : b = base + n
    · subst hb
      simp
    · rw [if_neg hb]
      by_cases hr : base ≤ b ∧ b < base + n
      · rw [if_pos hr, if_pos (by omega)]
      · rw [if_neg hr, if_neg (by omega)]

/-- A fill within the local space keeps the canonical form. -/
theorem Memory.wf_fill {mem : Memory} (h : Memory.wf mem) {base n : Nat} (f : Nat → Byte)
    (hn : base + n ≤ Config.localSize) : Memory.wf (Memory.fill mem base f n) := by
  induction n with
  | zero => exact h
  | succ n ih => exact Memory.wf_write (ih (by omega)) (by omega) _

/-- Two canonical local spaces that read alike are the same data. -/
theorem Memory.eq_of_read_eq {m₁ m₂ : Memory} (h₁ : Memory.wf m₁) (h₂ : Memory.wf m₂)
    (h : ∀ a, Memory.read m₁ a = Memory.read m₂ a) : m₁ = m₂ := by
  induction m₁ generalizing m₂ with
  | nil =>
    cases m₂ with
    | nil => rfl
    | cons d r =>
      have := h d.1
      simp only [Memory.read, if_true] at this
      exact absurd this.symm (h₂.2 d (by simp)).2
  | cons c r₁ ih =>
    obtain ⟨k, u⟩ := c
    obtain ⟨⟨hk, hs₁⟩, hz₁⟩ := And.intro (List.pairwise_cons.mp h₁.1) h₁.2
    cases m₂ with
    | nil =>
      have := h k
      simp only [Memory.read, if_true] at this
      exact absurd this (hz₁ (k, u) (by simp)).2
    | cons d r₂ =>
      obtain ⟨l, w⟩ := d
      obtain ⟨⟨hl, hs₂⟩, hz₂⟩ := And.intro (List.pairwise_cons.mp h₂.1) h₂.2
      have low₁ (x : Nat) (hx : x ≤ k) : Memory.read r₁ x = 0x00#8 :=
        Memory.read_of_forall_lt (fun e he => by have := hk e he; simp at this; omega)
      have low₂ (x : Nat) (hx : x ≤ l) : Memory.read r₂ x = 0x00#8 :=
        Memory.read_of_forall_lt (fun e he => by have := hl e he; simp at this; omega)
      have hkl : k = l := by
        rcases Nat.lt_trichotomy k l with hlt | he | hgt
        · have hx := h k
          have ne : l ≠ k := by omega
          simp only [Memory.read, if_true, ne, if_false, low₂ k (by omega)] at hx
          exact absurd hx (hz₁ (k, u) (by simp)).2
        · exact he
        · have hx := h l
          have ne : k ≠ l := by omega
          simp only [Memory.read, if_true, ne, if_false, low₁ l (by omega)] at hx
          exact absurd hx.symm (hz₂ (l, w) (by simp)).2
      subst hkl
      have huw : u = w := by simpa [Memory.read] using h k
      subst huw
      congr 1
      refine ih ⟨hs₁, fun e he => hz₁ e (by simp [he])⟩ ⟨hs₂, fun e he => hz₂ e (by simp [he])⟩ (fun a => ?_)
      by_cases ha : k = a
      · subst ha
        rw [low₁ k le_rfl, low₂ k le_rfl]
      · simpa [Memory.read, ha] using h a

/-! ## The arrays -/

theorem bankBase_le (b : Bank) : bankBase b + 256 ≤ Config.localSize := by cases b <;> decide

/-- Different arrays share no address. -/
theorem bankBase_disjoint {b c : Bank} (h : b ≠ c) {i j : Nat} (hi : i < 256) (hj : j < 256) :
    bankBase b + i ≠ bankBase c + j := by
  cases b <;> cases c <;> first | exact absurd rfl h | (simp [bankBase]; omega)

/-- One entry after a fill of an array. -/
theorem State.entry_fillBank {s : State} (h : Memory.wf s.mem) (b c : Bank) (f : Nat → Byte) {n k : Nat}
    (hn : n ≤ 256) (hk : k < 256) :
    (s.fillBank b f n).entry c k = if c = b ∧ k < n then f k else s.entry c k := by
  simp only [State.entry, State.fillBank_mem]
  rw [Memory.read_fill h.1]
  by_cases hbc : c = b
  · subst hbc
    by_cases hkn : k < n
    · simp [hkn]
    · simp [hkn]
  · have hd (j : Nat) (hj : j < 256) := bankBase_disjoint hbc hk hj
    rw [if_neg (fun hr => hd (bankBase c + k - bankBase b) (by omega) (by omega)), if_neg (fun hr => hbc hr.1)]

/-- One entry after a write of one entry. -/
theorem State.entry_setEntry {s : State} (h : Memory.wf s.mem) (b c : Bank) (v : Byte) {i k : Nat}
    (hi : i < 256) (hk : k < 256) :
    (s.setEntry b i v).entry c k = if c = b ∧ k = i then v else s.entry c k := by
  simp only [State.entry, State.setEntry_mem]
  rw [Memory.read_write h.1]
  by_cases hbc : c = b
  · subst hbc
    simp
  · rw [if_neg (bankBase_disjoint hbc hk hi), if_neg (fun hr => hbc hr.1)]

end Sys2Proof.Machine
end

