-- ==== Sys2Proof/Laws/Ops.lean ====
section
/-! SUPPORT. One lemma per shared operation, saying everything it can do, and the inversion lemmas of the execution
frame. -/

namespace Sys2Proof.Machine

/-- A response changes nothing but the response port. -/
theorem respond_eq (d : Word) (s : State) : respond d s = .next (s.answer ⟨s.err, d⟩) := rfl

theorem respond_next {d : Word} {s t : State} (h : respond d s = .next t) : t = s.answer ⟨s.err, d⟩ := by
  simpa [respond] using h.symm

/-- A result command writes RES and answers it. -/
theorem deliver_eq (v : Byte) (s : State) :
    deliver v s = .next ((s.setRes v).answer ⟨s.err, zext32 v⟩) := rfl

/-- Taking a fault writes the record and answers the code; nothing else changes. -/
theorem raiseFault_eq (w : Word) (c : FaultCode) (hi lo : Byte) (s : State) :
    raiseFault w c hi lo s =
      .next ((s.record (faultCode c) w (hi ++ lo)).answer ⟨faultCode c, 0x00000000#32⟩) := rfl

theorem faultCode_ne_zero (c : FaultCode) : faultCode c ≠ 0x00#8 := by cases c <;> decide

theorem faultCode_le (c : FaultCode) : (faultCode c).toNat ≤ 8 := by cases c <;> decide

@[simp] theorem State.halted_eq_true (s : State) : s.halted = true ↔ s.err ≠ 0x00#8 := by simp [State.halted]

@[simp] theorem State.halted_eq_false (s : State) : s.halted = false ↔ s.err = 0x00#8 := by simp [State.halted]

/-- The frame of a running block. -/
theorem whenRunning_running {s : State} (h : s.err = 0x00#8) (run : Result) : whenRunning s run = run := by
  simp [whenRunning, State.halted, h]

/-- The frame of a halted block: refused. -/
theorem whenRunning_halted {s : State} (h : s.err ≠ 0x00#8) (run : Result) :
    whenRunning s run = .next (s.answer ⟨s.err, 0x00000000#32⟩) := by
  simp [whenRunning, State.halted, h, respond]

/-- What the frame can do: refuse while halted, or run. -/
theorem whenRunning_cases {s t : State} {run : Result} (h : whenRunning s run = .next t) :
    (s.err ≠ 0x00#8 ∧ t = s.answer ⟨s.err, 0x00000000#32⟩) ∨ (s.err = 0x00#8 ∧ run = .next t) := by
  by_cases he : s.err = 0x00#8
  · rw [whenRunning_running he] at h
    exact .inr ⟨he, h⟩
  · rw [whenRunning_halted he] at h
    exact .inl ⟨he, by simpa using h.symm⟩

/-- An illegal word: refused while halted, ILLEGAL_CMD while running. -/
theorem execIllegal_eq (w : Word) (s : State) :
    execIllegal w s =
      if s.err = 0x00#8 then .next ((s.record 0x01#8 w 0x0000#16).answer ⟨0x01#8, 0x00000000#32⟩)
      else .next (s.answer ⟨s.err, 0x00000000#32⟩) := by
  by_cases he : s.err = 0x00#8
  · rw [execIllegal, whenRunning_running he, if_pos he]
    rfl
  · rw [execIllegal, whenRunning_halted he, if_neg he]

/-- The front of LPREP and LAGR: the fault pcheck names, or the run. -/
theorem whenPointsGood_cases {w : Word} {s t : State} {run : Result} (h : whenPointsGood w s run = .next t) :
    (∃ c hi lo, pcheck s = some (c, hi, lo) ∧
      t = (s.record (faultCode c) w (hi ++ lo)).answer ⟨faultCode c, 0x00000000#32⟩) ∨
    (pcheck s = none ∧ run = .next t) := by
  unfold whenPointsGood at h
  split at h
  · rename_i c hi lo hp
    exact .inl ⟨c, hi, lo, hp, by simpa [raiseFault_eq] using h.symm⟩
  · rename_i hp
    exact .inr ⟨hp, h⟩

/-- After the wipe the block is the reset block but for IE and the ports. -/
theorem State.wipe_eq (s : State) :
    s.wipe = { State.reset with ie := s.ie, pending := s.pending, responses := s.responses } := rfl

/-- A reset pulse leaves the reset state but for the ports. -/
theorem pulseReset_eq (s : State) :
    pulseReset s = { State.reset with pending := s.pending, responses := s.responses } := rfl

/-- A write to the local space keeps the canonical form (20_memory R42). -/
theorem wf_memWrite {s : State} (h : Memory.wf s.mem) (addr : BitVec 10) (v : Byte) :
    Memory.wf (memWrite addr v s).mem := by
  have hi : (addrIndex addr).toNat < 256 := (addrIndex addr).isLt
  have hw (b : Bank) : Memory.wf (s.setEntry b (addrIndex addr).toNat v).mem :=
    Memory.wf_write h (by have := bankBase_le b; omega) v
  unfold memWrite
  split
  · exact hw .xs
  · exact hw .vs
  · exact hw .cs
  · exact h

/-- A fill of an array keeps the canonical form. -/
theorem wf_fillBank {s : State} (h : Memory.wf s.mem) (b : Bank) (f : Nat → Byte) {n : Nat} (hn : n ≤ 256) :
    Memory.wf (s.fillBank b f n).mem :=
  Memory.wf_fill h f (by have := bankBase_le b; omega)

end Sys2Proof.Machine
end

