-- ==== Sys2Proof/Laws/PerInstr.lean ====
section
/-! SUPPORT. One lemma per command about its syntax: the opcode byte of its word (30_encoding R61, R67). -/

namespace Sys2Proof

/-- The opcode of every command (30_encoding R67, column op). -/
def opcodeOf : Instr → Byte
  | .nop => 0x00#8
  | .clr => 0x01#8
  | .csrr _ => 0x10#8
  | .csrw _ _ => 0x11#8
  | .ld _ => 0x20#8
  | .st _ _ => 0x21#8
  | .ldseq => 0x22#8
  | .gfadd _ _ => 0x30#8
  | .gfmul _ _ => 0x31#8
  | .gfdiv _ _ => 0x32#8
  | .gfinv _ => 0x33#8
  | .eval _ => 0x40#8
  | .evaln => 0x41#8
  | .lprep => 0x50#8
  | .ldot => 0x51#8
  | .lagr => 0x52#8

namespace Laws.EncodeOpcode

/-- The word of a command carries the command's opcode in bits 31:24 (30_encoding R61). -/
def Statement (i : Instr) : Prop := wordOp (encode i) = opcodeOf i

theorem nop : Statement .nop := wordOp_formatN _

theorem clr : Statement .clr := wordOp_formatN _

theorem csrr (csr : Byte) : Statement (.csrr csr) := wordOp_formatC _ _ _

theorem csrw (csr val : Byte) : Statement (.csrw csr val) := wordOp_formatC _ _ _

theorem ld (addr : BitVec 10) : Statement (.ld addr) := wordOp_formatM _ _ _

theorem st (addr : BitVec 10) (data : Byte) : Statement (.st addr data) := wordOp_formatM _ _ _

theorem ldseq : Statement .ldseq := wordOp_formatN _

theorem gfadd (a b : Byte) : Statement (.gfadd a b) := wordOp_formatAB _ _ _

theorem gfmul (a b : Byte) : Statement (.gfmul a b) := wordOp_formatAB _ _ _

theorem gfdiv (a b : Byte) : Statement (.gfdiv a b) := wordOp_formatAB _ _ _

theorem gfinv (a : Byte) : Statement (.gfinv a) := wordOp_formatA _ _

theorem eval (x : Byte) : Statement (.eval x) := wordOp_formatA _ _

theorem evaln : Statement .evaln := wordOp_formatN _

theorem lprep : Statement .lprep := wordOp_formatN _

theorem ldot : Statement .ldot := wordOp_formatN _

theorem lagr : Statement .lagr := wordOp_formatN _

end Laws.EncodeOpcode

end Sys2Proof
end

