-- ==== Sys2Proof/Tests/Slice0.lean ====
section
/-! SUPPORT. The model's own tests: decoding and single commands on the values of spec/95_test_vectors.md and of the
rules' examples, and a witness for the hypotheses of every statement. -/

namespace Sys2Proof.Tests

open Sys2Proof.Machine

/-- The next state of a command; it always has one. -/
def after (r : Result) : State :=
  match r with
  | .next t => t
  | .fault _ | .refused _ => State.reset

/-- The last response given. -/
def answer (s : State) : Option Response := s.responses.getLast?

/-- P2 of 95_test_vectors before LPREP: the shares 1, 3 and 5 of the byte 2A, and the coefficients of V5. -/
def shares : State :=
  { State.reset with
    npts := 0x03#8, m := 0x03#8
    mem := [(0x000, 0x01#8), (0x001, 0x03#8), (0x002, 0x05#8), (0x100, 0x60#8), (0x101, 0x1D#8), (0x102, 0x13#8),
            (0x200, 0x2A#8), (0x201, 0x1D#8), (0x202, 0x57#8)] }

/-- P2 after LPREP: the weights AF 46 E8. -/
def prepared : State :=
  { shares with
    wvalid := true
    mem := shares.mem ++ [(0x300, 0xAF#8), (0x301, 0x46#8), (0x302, 0xE8#8)] }

/-- P3 of 95_test_vectors after its LAGR: halted by DUP_POINT, with IE set. -/
def duplicates : State :=
  { State.reset with
    npts := 0x03#8, m := 0x02#8, err := 0x07#8, ecmd := 0x52000000#32, eidx := 0x0002#16, ie := true
    mem := [(0x000, 0x07#8), (0x001, 0x09#8), (0x002, 0x07#8), (0x100, 0x11#8), (0x101, 0x22#8), (0x102, 0x33#8)] }

/-- A state with one command presented. -/
def presents (s : State) (w : Word) : State := { s with pending := [.command w] }

/-! ## Well-formedness: the one check, refusing -/

theorem test_wellFormed_refuses_csrr_of_8 : WellFormed (.csrr 0x08#8) = false := by decide

theorem test_wellFormed_refuses_csrw_of_FF : WellFormed (.csrw 0xFF#8 0x00#8) = false := by decide

theorem test_wellFormed_accepts_csrw_of_7 : WellFormed (.csrw 0x07#8 0xAA#8) = true := by decide

/-! ## Decoding words of 95_test_vectors and 30_encoding R74 -/

theorem test_decode_control :
    decode 0x00000000#32 = .ok .nop ∧ decode 0x01000000#32 = .ok .clr ∧
      decode 0x10000700#32 = .ok (.csrr 0x07#8) ∧ decode 0x110002FE#32 = .ok (.csrw 0x02#8 0xFE#8) := ⟨rfl, rfl, rfl, rfl⟩

theorem test_decode_memory :
    decode 0x20010200#32 = .ok (.ld 0x102#10) ∧ decode 0x2102011D#32 = .ok (.st 0x201#10 0x1D#8) ∧
      decode 0x22000000#32 = .ok .ldseq := ⟨rfl, rfl, rfl⟩

theorem test_decode_scalar :
    decode 0x30005783#32 = .ok (.gfadd 0x57#8 0x83#8) ∧ decode 0x31005713#32 = .ok (.gfmul 0x57#8 0x13#8) ∧
      decode 0x3200C183#32 = .ok (.gfdiv 0xC1#8 0x83#8) ∧ decode 0x33000053#32 = .ok (.gfinv 0x53#8) :=
  ⟨rfl, rfl, rfl, rfl⟩

theorem test_decode_engines :
    decode 0x400000FF#32 = .ok (.eval 0xFF#8) ∧ decode 0x41000000#32 = .ok .evaln ∧
      decode 0x50000000#32 = .ok .lprep ∧ decode 0x51000000#32 = .ok .ldot ∧ decode 0x52000000#32 = .ok .lagr :=
  ⟨rfl, rfl, rfl, rfl, rfl⟩

/-- V2 of 95_test_vectors. -/
theorem test_decode_refuses :
    decode 0x60000000#32 = .error .unassignedOpcode ∧ decode 0x00000001#32 = .error .nonzeroReservedBits ∧
      decode 0x10000301#32 = .error .nonzeroReservedBits ∧ decode 0x20000001#32 = .error .nonzeroReservedBits ∧
      decode 0x21040000#32 = .error .nonzeroReservedBits ∧ decode 0x1100FF00#32 = .error .unassignedCsr ∧
      decode 0x10010000#32 = .error .nonzeroReservedBits := ⟨rfl, rfl, rfl, rfl, rfl, rfl, rfl⟩

theorem test_decode_bytes_most_significant_first :
    decodeBytes [0x21#8, 0x01#8, 0x02#8, 0xAB#8, 0x77#8] = .ok (.st 0x102#10 0xAB#8, [0x77#8]) ∧
      decodeBytes [0x21#8, 0x01#8, 0x02#8] = .error .shortWord := ⟨rfl, rfl⟩

theorem test_encode_worked :
    encode (.gfmul 0x57#8 0x83#8) = 0x31005783#32 ∧ encode (.st 0x102#10 0xAB#8) = 0x210102AB#32 ∧
      encode (.ld 0x300#10) = 0x20030000#32 ∧ encode (.csrw 0x03#8 0x05#8) = 0x11000305#32 := by decide

/-- The host's probe: the table's word of LAGR runs as the first command after reset. -/
theorem test_first_command_runs :
    decodeTableWord 32 0x52000000 = some .lagr ∧
      (after (step (State.reset.withFetchWord 32 0x52000000))).err = 0x04#8 := by decide

/-! ## One step of each command -/

theorem test_nop_reports_err : answer (after (exec .nop duplicates)) = some ⟨0x07#8, 0x00000000#32⟩ := by decide

theorem test_clr_keeps_ie : (after (exec .clr duplicates)).ie = true ∧ (after (exec .clr duplicates)).err = 0x00#8 ∧
    (after (exec .clr duplicates)).mem = [] := by decide

theorem test_csrr_status_of_prepared :
    answer (after (exec (.csrr 0x01#8) prepared)) = some ⟨0x00#8, 0x00000100#32⟩ := by decide

theorem test_csrr_eidx_while_halted :
    answer (after (exec (.csrr 0x07#8) duplicates)) = some ⟨0x07#8, 0x00000002#32⟩ := by decide

theorem test_csrw_ctrl_ignores_upper_bits : (after (exec (.csrw 0x02#8 0xFE#8) shares)).ie = false ∧
    (after (exec (.csrw 0x02#8 0x01#8) shares)).ie = true := by decide

theorem test_csrw_res_faults : (after (exec (.csrw 0x05#8 0x01#8) shares)).ecmd = 0x11000501#32 ∧
    (after (exec (.csrw 0x05#8 0x01#8) shares)).eidx = 0x0005#16 := by decide

theorem test_ld_reads_values : answer (after (exec (.ld 0x101#10) shares)) = some ⟨0x00#8, 0x0000001D#32⟩ := by decide

theorem test_ld_is_refused_while_halted :
    answer (after (exec (.ld 0x100#10) duplicates)) = some ⟨0x07#8, 0x00000000#32⟩ := by decide

theorem test_st_of_a_point_clears_wvalid : (after (exec (.st 0x000#10 0x01#8) prepared)).wvalid = false ∧
    (after (exec (.st 0x100#10 0x05#8) prepared)).wvalid = true := by decide

theorem test_st_to_weights_faults : (after (exec (.st 0x304#10 0x01#8) shares)).err = 0x02#8 ∧
    (after (exec (.st 0x304#10 0x01#8) shares)).eidx = 0x0304#16 := by decide

theorem test_ldseq_keeps_entries_above :
    (after (exec .ldseq { State.reset with npts := 0x03#8, mem := [(0x003, 0x09#8)] })).mem =
      [(0x000, 0x01#8), (0x001, 0x02#8), (0x002, 0x03#8), (0x003, 0x09#8)] := by decide

theorem test_gfadd : (after (exec (.gfadd 0x57#8 0x83#8) shares)).res = 0xD4#8 := by decide

theorem test_gfmul_reduces : (after (exec (.gfmul 0x57#8 0x83#8) shares)).res = 0xC1#8 ∧
    (after (exec (.gfmul 0x02#8 0x80#8) shares)).res = 0x1B#8 := by decide

theorem test_gfdiv : (after (exec (.gfdiv 0xC1#8 0x83#8) shares)).res = 0x57#8 := by decide

theorem test_gfdiv_by_zero : (after (exec (.gfdiv 0x00#8 0x00#8) shares)).err = 0x03#8 := by decide

theorem test_gfinv : (after (exec (.gfinv 0x53#8) shares)).res = 0xCA#8 := by decide

theorem test_eval : (after (exec (.eval 0x02#8) shares)).res = 0x57#8 := by decide

theorem test_eval_at_zero_faults : (after (exec (.eval 0x00#8) shares)).err = 0x05#8 := by decide

theorem test_evaln : (after (exec .evaln shares)).vs 0 = 0x60#8 ∧ (after (exec .evaln shares)).vs 1 = 0x1D#8 ∧
    (after (exec .evaln shares)).vs 2 = 0x13#8 := by decide

/-- V5 of 95_test_vectors: the middle point is zero. -/
theorem test_evaln_zero_point :
    (after (exec .evaln { State.reset with
      npts := 0x03#8, m := 0x02#8, mem := [(0x000, 0x01#8), (0x002, 0x03#8)] })).eidx = 0x0101#16 := by decide

theorem test_lprep_weights : (after (exec .lprep shares)).mem = prepared.mem := by decide +kernel

/-- V7 of 95_test_vectors, row 8: the first pair in (k, l) order. -/
theorem test_lprep_first_duplicate :
    (after (exec .lprep { State.reset with
      npts := 0x04#8, m := 0x01#8
      mem := [(0x000, 0x06#8), (0x001, 0x08#8), (0x002, 0x06#8), (0x003, 0x08#8)] })).eidx = 0x0002#16 := by decide

theorem test_ldot : answer (after (exec .ldot prepared)) = some ⟨0x00#8, 0x0000002A#32⟩ := by decide

theorem test_ldot_stale : (after (exec .ldot shares)).err = 0x08#8 := by decide

theorem test_lagr : (after (exec .lagr shares)).res = 0x2A#8 := by decide +kernel

/-- The example of 60_exceptions R192: a zero point is reported before too few points. -/
theorem test_lagr_priority :
    (after (exec .lagr { State.reset with npts := 0x02#8, m := 0x03#8 })).err = 0x05#8 := by decide

theorem test_irq_of_duplicates : duplicates.irq = true ∧ (after (exec .clr duplicates)).irq = false := by decide

/-! ## Tables, assembler and host records -/

/-- The reading example of 42_gf_scalar R110. -/
theorem test_table_multiply : tableMul 0x57#8 0x83#8 = some 0xC1#8 ∧ logEntry 0x57#8 = some 0x62 := by decide

/-- 30_encoding R73, R74. -/
theorem test_assembler_line :
    assembleLine "ST VS[2], 0xAB ; a value".toList = .ok (some (.st 0x102#10 0xAB#8)) ∧
      assembleLine "SETN 5".toList = .ok (some (.csrw 0x03#8 0x05#8)) := ⟨rfl, rfl⟩

theorem test_assembler_does_not_truncate : assembleLine "GFINV 256".toList = .error .outOfRange := rfl

/-- S8 of 95_test_vectors: the record of share 1, 69 bytes. -/
theorem test_record_layout :
    (recordBytes ⟨⟨Vector.replicate 16 0x00#8, 0x02#8, 0x03#8, 0x0010#16⟩, 0x01#8, List.replicate 48 0x00#8⟩).drop 16
      = [0x02#8, 0x03#8, 0x00#8, 0x10#8, 0x01#8] ++ List.replicate 48 0x00#8 := by decide

/-- A record of threshold 3 and share_id `x` for the empty secret. -/
def recordOf (x : Byte) : List Byte :=
  recordBytes ⟨⟨Vector.replicate 16 0x00#8, 0x02#8, 0x03#8, 0x0000#16⟩, x, List.replicate 32 0x00#8⟩

/-- 45_host_protocol R168, R173: each failed check has its own name. -/
theorem test_reconstruct_names_its_failures :
    validateShares [recordOf 0x01#8, recordOf 0x02#8] = .error .insufficientShares ∧
      validateShares [recordOf 0x01#8, recordOf 0x00#8] = .error .zeroShareId ∧
      validateShares [recordOf 0x01#8, (recordOf 0x02#8).set 0 0xFF#8] = .error .mismatchedHeaders ∧
      validateShares [recordOf 0x01#8, (recordOf 0x02#8).take 19] = .error .differingSizes ∧
      validateShares [(recordOf 0x01#8).take 19] = .error .truncatedHeader := by decide

/-- The same, of the checks on lengths and of the block's. -/
theorem test_block_and_length_failures :
    lengthError ⟨Vector.replicate 16 0x00#8, 0x03#8, 0x03#8, 0x0000#16⟩ 53 = some .unknownHashId ∧
      lengthError ⟨Vector.replicate 16 0x00#8, 0x02#8, 0x03#8, 0x0001#16⟩ 53 = some .inconsistentLength ∧
      lengthError ⟨Vector.replicate 16 0x00#8, 0x02#8, 0x03#8, 0x0000#16⟩ 53 = none ∧
      reconstructFailure 0x07#8 = .duplicateShareId ∧ recordFromHex ['z', 'z'] = .error .malformedHex := by decide

/-- 70_reset R226: the last command counts, not a reset after it. -/
theorem test_ended_cleanly :
    endedCleanly [.command 0x01000000#32, .reset] = true ∧
      endedCleanly [.command 0x01000000#32, .command 0x00000000#32] = false ∧ endedCleanly [.reset] = false := by decide

theorem test_hex_reads_both_cases :
    toHex [0xA5#8] = ['a', '5'] ∧ fromHex ['A', '5'] = some [0xA5#8] ∧ fromHex ['g', '5'] = none := by decide

/-! ## Witnesses: a concrete state and operands for the hypotheses of each statement, one per clause -/

/-- V7 row 2: a zero point at index 2. -/
def zeroPointAtTwo : State :=
  { State.reset with npts := 0x04#8, m := 0x02#8, mem := [(0x000, 0x01#8), (0x001, 0x02#8)] }

/-- V7 row 3: fewer points than the threshold. -/
def tooFewPoints : State :=
  { State.reset with npts := 0x02#8, m := 0x03#8, mem := [(0x000, 0x01#8), (0x001, 0x02#8)] }

/-- P3 before its LAGR: the points 07 09 07. -/
def duplicatesRunning : State := { duplicates with err := 0x00#8, ecmd := 0x00000000#32, eidx := 0x0000#16 }

theorem witness_DecodeReadsTheOneMatchingRow :
    ∃ r ∈ opcodeRows, 0x210102AB#32 &&& r.mask = r.pattern :=
  ⟨⟨"ST", 0x21000000#32, 0xFFFC0000#32, fun w => .st (wordAddr w) (wordLow w)⟩, by simp [opcodeRows, controlRows], by decide⟩

theorem witness_DecodeOfEncodeIsTheCommand : WellFormed (.csrw 0x07#8 0xFF#8) = true := by decide

theorem witness_EncodeOfDecodeIsTheWord : decode 0x21FFFFFF#32 ≠ .ok .nop ∧
    decode 0x2103FFFF#32 = .ok (.st 0x3FF#10 0xFF#8) := ⟨fun h => (by cases h), rfl⟩

theorem witness_IllegalWordsAreExactlyThoseOfTheRule :
    (presents shares 0xFF000000#32).pending = [.command 0xFF000000#32] ∧ ¬ LegalWord 0xFF000000#32 ∧
      ¬ LegalWord 0x10000800#32 ∧ ¬ LegalWord 0x20040000#32 ∧
      (presents shares 0xFF000000#32).err = 0x00#8 ∧ (presents duplicates 0xFF000000#32).err ≠ 0x00#8 := by
  refine ⟨rfl, ?_, ?_, ?_, rfl, by decide⟩ <;> simp [LegalWord]

theorem witness_StepRunsTheDecodedCommand :
    (presents shares 0x52000000#32).pending = .command 0x52000000#32 :: [] ∧ decode 0x52000000#32 = .ok .lagr :=
  ⟨rfl, rfl⟩

/-- The second command of a list: NOP after a GFDIV by zero and before a reset. -/
theorem witness_RunAnswersEveryCommandInOrder :
    [.command 0x32000100#32, .command 0x00000000#32, .reset] =
      [.command 0x32000100#32] ++ HostMove.command 0x00000000#32 :: [.reset] := rfl

theorem witness_EveryWordHasOneOutcomeAndOneResponse :
    decode 0x31000202#32 = .ok (.gfmul 0x02#8 0x02#8) ∧ shares.err = 0x00#8 ∧
      duplicates.err ≠ 0x00#8 ∧ ExecutesHalted (.csrr 0x07#8) ∧ ¬ ExecutesHalted (.gfmul 0x02#8 0x02#8) ∧
      ∀ i, decode 0xFF000000#32 ≠ .ok i := by
  refine ⟨rfl, rfl, by decide, .inr (.inr ⟨0x07#8, by decide, rfl⟩), by simp [ExecutesHalted], fun i h => ?_⟩
  cases h

theorem witness_ResetPulseRestoresTheResetState :
    ({ duplicates with pending := [.reset] } : State).pending = .reset :: [] ∧
      ({ duplicates with pending := [.reset] } : State).err ≠ 0x00#8 ∧
      ({ duplicates with pending := [.reset] } : State).ie = true ∧
      ∃ t, step { duplicates with pending := [.reset] } = .next t ∧ t.ie = false :=
  ⟨rfl, by decide, rfl, _, rfl, rfl⟩

theorem witness_ResetPulseKeepsThePorts :
    ({ duplicates with pending := [.reset, .command 0x00000000#32] } : State).pending =
      .reset :: [.command 0x00000000#32] := rfl

theorem witness_BlockWaitsWithNothingPresented : duplicates.pending = [] := rfl

theorem witness_CsrrAnswersTheRegister :
    (∀ k, k < 8 → (BitVec.ofNat 8 k : Byte).toNat < 8) ∧ (8 ≤ (0x08#8 : Byte).toNat ∨ (0x00#8 : Byte) ≠ 0x00#8) ∧
      (8 ≤ (0x03#8 : Byte).toNat ∨ (0x01#8 : Byte) ≠ 0x00#8) := by decide

theorem witness_CsrwWritesTheWritableRegisters :
    shares.err = 0x00#8 ∧ duplicates.err ≠ 0x00#8 ∧ 8 ≤ (0x08#8 : Byte).toNat := by decide

theorem witness_LdAnswersTheByteAtTheAddress :
    shares.err = 0x00#8 ∧ duplicates.err ≠ 0x00#8 ∧ (0x20000001#32).extractLsb' 24 8 = 0x20#8 ∧
      (0x20000001#32).extractLsb' 0 8 ≠ 0#8 ∧ (0x20040000#32).extractLsb' 18 6 ≠ 0#6 := by decide

theorem witness_StWritesOneByteOfThreeBanks :
    Memory.wf prepared.mem ∧ prepared.err = 0x00#8 ∧ (0x0FF#10).toNat < 0x100 ∧ ¬ (0x100#10).toNat < 0x100 ∧
      (0x2FF#10).toNat < 0x300 ∧ 0x300 ≤ (0x300#10).toNat ∧ duplicates.err ≠ 0x00#8 := by decide

theorem witness_LdseqFillsThePointsInSequence :
    Memory.wf shares.mem ∧ shares.err = 0x00#8 ∧ 0 < 2 ∧ 2 < shares.npts.toNat ∧ duplicates.err ≠ 0x00#8 := by decide

theorem witness_FieldLawsHold :
    gmul 0x57#8 0x00#8 = 0x00#8 ∧ (0x83#8 : Byte) ≠ 0x00#8 := by decide

theorem witness_TablesHoldPowersOfTheGenerator : (0xFF#8 : Byte) ≠ 0x00#8 ∧ 0 < 254 ∧ 254 < 255 ∧ 0 < 50 ∧ 50 < 51 := by
  decide

theorem witness_TableMultiplyEqualsProduct :
    logEntry 0xF6#8 = some 0xFE ∧ logEntry 0x01#8 = some 0 ∧ (0xFF#8 : Byte) ≠ 0x00#8 := by decide

theorem witness_TableDivideEqualsQuotient :
    (0x01#8 : Byte) ≠ 0x00#8 ∧ (0xF6#8 : Byte) ≠ 0x00#8 ∧ logEntry 0x01#8 = some 0 ∧ logEntry 0xF6#8 = some 254 := by
  decide

theorem witness_InverseIsUniqueAndTabled : (0x01#8 : Byte) ≠ 0x00#8 ∧ gmul 0x01#8 0x01#8 = 0x01#8 := by decide

theorem witness_ScalarCommands :
    shares.err = 0x00#8 ∧ duplicates.err ≠ 0x00#8 ∧ (0x01#8 : Byte) ≠ 0x00#8 ∧ (0xFF#8 : Byte) ≠ 0x00#8 := by decide

theorem witness_ValuesAtDistinctPointsDetermineThePolynomial :
    1 ≤ 3 ∧ (∀ l, l < 3 → ∀ k, k < l → shares.xs k ≠ shares.xs l) ∧
      ∀ k, k < 3 → peval shares.cs 3 (shares.xs k) = peval shares.cs 3 (shares.xs k) := by decide

theorem witness_EvalWritesTheValueAtThePoint :
    shares.err = 0x00#8 ∧ shares.m ≠ 0x00#8 ∧ (0x01#8 : Byte) ≠ 0x00#8 ∧ State.reset.err = 0x00#8 ∧
      State.reset.m = 0x00#8 ∧ duplicates.err ≠ 0x00#8 := by decide

theorem witness_EvalnFillsTheValues :
    (Memory.wf shares.mem ∧ shares.err = 0x00#8 ∧ 1 ≤ shares.m.toNat ∧ shares.m.toNat ≤ shares.npts.toNat ∧
      ∀ j, j < shares.npts.toNat → shares.xs j ≠ 0x00#8) ∧
    (tooFewPoints.err = 0x00#8 ∧ tooFewPoints.npts.toNat < tooFewPoints.m.toNat) ∧
    (zeroPointAtTwo.err = 0x00#8 ∧ 1 ≤ zeroPointAtTwo.m.toNat ∧ zeroPointAtTwo.m.toNat ≤ zeroPointAtTwo.npts.toNat ∧
      2 < zeroPointAtTwo.npts.toNat ∧ zeroPointAtTwo.xs 2 = 0x00#8 ∧ ∀ i, i < 2 → zeroPointAtTwo.xs i ≠ 0x00#8) ∧
    duplicates.err ≠ 0x00#8 := by decide

theorem witness_PointCheckReportsTheFirstFault :
    State.reset.npts = 0x00#8 ∧
    (2 < zeroPointAtTwo.npts.toNat ∧ zeroPointAtTwo.xs 2 = 0x00#8 ∧ ∀ j, j < 2 → zeroPointAtTwo.xs j ≠ 0x00#8) ∧
    (tooFewPoints.npts ≠ 0x00#8 ∧ (∀ k, k < tooFewPoints.npts.toNat → tooFewPoints.xs k ≠ 0x00#8) ∧
      tooFewPoints.npts.toNat < tooFewPoints.m.toNat) ∧
    (2 < duplicates.npts.toNat ∧ (∀ j, j < duplicates.npts.toNat → duplicates.xs j ≠ 0x00#8) ∧
      duplicates.m.toNat ≤ duplicates.npts.toNat ∧ duplicates.xs 0 = duplicates.xs 2 ∧
      ∀ l', l' < duplicates.npts.toNat → ∀ k', k' < l' → duplicates.xs k' = duplicates.xs l' →
        0 < k' ∨ (0 = k' ∧ 2 ≤ l')) ∧
    shares.PointsGood := by
  refine ⟨by decide, by decide, by decide, ⟨by decide, by decide, by decide, by decide, ?_⟩, by decide⟩
  decide

theorem witness_LprepWritesTheWeights :
    (Memory.wf shares.mem ∧ shares.err = 0x00#8 ∧ shares.PointsGood) ∧
    (duplicatesRunning.err = 0x00#8 ∧ pcheck duplicatesRunning = some (.dupPoint, 0x00#8, 0x02#8) ∧
      duplicatesRunning.WeightsSound ∧ (pcheck duplicatesRunning).isSome = true) ∧
    duplicates.err ≠ 0x00#8 := by decide

theorem witness_prepared_weights_are_sound : prepared.WeightsSound ∧ prepared.wvalid = true := by decide +kernel

/-- All values one byte, with sound weights. -/
theorem witness_LdotWritesTheInterpolatedByte :
    (prepared.err = 0x00#8 ∧ prepared.wvalid = true) ∧ (shares.err = 0x00#8 ∧ shares.wvalid = false) ∧
    (∃ s : State, s.err = 0x00#8 ∧ s.wvalid = true ∧ s.WeightsSound ∧ ∀ k, k < s.npts.toNat → s.vs k = 0x77#8) ∧
    duplicates.err ≠ 0x00#8 := by
  refine ⟨by decide, by decide, ⟨{ State.reset with
    npts := 0x01#8, wvalid := true, mem := [(0x000, 0x09#8), (0x100, 0x77#8), (0x300, 0x01#8)] }, ?_⟩, by decide⟩
  decide

theorem witness_LagrIsLprepThenLdot :
    (Memory.wf shares.mem ∧ shares.err = 0x00#8 ∧ shares.PointsGood) ∧
    (tooFewPoints.err = 0x00#8 ∧ pcheck tooFewPoints = some (.insufficient, 0x02#8, 0x03#8)) ∧
    duplicates.err ≠ 0x00#8 := by decide

/-- The points 01 03 05 and a rotation of them. -/
theorem witness_WeightsSumToOneAndFollowThePoints :
    1 ≤ 3 ∧ (∀ k, k < 3 → shares.xs k ≠ 0x00#8) ∧ (∀ l, l < 3 → ∀ k, k < l → shares.xs k ≠ shares.xs l) ∧
      (∀ k, k < 3 → (k + 1) % 3 < 3) ∧ ∀ l, l < 3 → ∀ k, k < l → (k + 1) % 3 ≠ (l + 1) % 3 := by decide

theorem witness_InterpolationRecoversTheConstantTerm :
    (∃ t, Memory.wf shares.mem ∧ shares.err = 0x00#8 ∧ exec .evaln shares = .next t ∧ t.err = 0x00#8 ∧
      ∀ l, l < shares.npts.toNat → ∀ k, k < l → shares.xs k ≠ shares.xs l) ∧
    shares.PointsGood ∧ 1 ≤ 3 ∧ 3 ≤ shares.npts.toNat ∧
      ∀ k, k < shares.npts.toNat → shares.vs k = peval shares.cs 3 (shares.xs k) :=
  ⟨⟨after (exec .evaln shares), by decide, rfl, rfl, by decide, by decide⟩, by decide, by decide, by decide, by decide⟩

theorem witness_WeightsInvariantIsKept :
    Memory.wf prepared.mem ∧ prepared.WeightsSound ∧ ∃ t, step (presents prepared 0x41000000#32) = .next t :=
  ⟨by decide, by decide +kernel, _, rfl⟩

theorem witness_FaultRecordInvariantIsKept :
    duplicates.RecordSound ∧ ∃ t, step (presents duplicates 0x00000000#32) = .next t :=
  ⟨⟨by decide, by decide, by decide, by decide, fun _ => ⟨0, 2, by decide⟩⟩, _, rfl⟩

theorem witness_FaultsChangeOnlyTheRecord :
    ∃ t, (presents shares 0x32000100#32).pending = .command 0x32000100#32 :: [] ∧
      (presents shares 0x32000100#32).err = 0x00#8 ∧ step (presents shares 0x32000100#32) = .next t ∧
      t.err ≠ 0x00#8 :=
  ⟨after (step (presents shares 0x32000100#32)), rfl, rfl, rfl, by decide⟩

theorem witness_FaultsComeFromTheirCommands :
    ∃ t, WellFormed (.st 0x300#10 0x00#8) = true ∧ shares.err = 0x00#8 ∧ exec (.st 0x300#10 0x00#8) shares = .next t ∧
      t.err = faultCode .access :=
  ⟨after (exec (.st 0x300#10 0x00#8) shares), rfl, rfl, rfl, by decide⟩

theorem witness_HaltedStates :
    duplicates.err ≠ 0x00#8 ∧ ¬ ExecutesHalted .lagr ∧ (∀ i, decode 0xFF000000#32 ≠ .ok i) ∧
      (∃ t, step (presents duplicates 0x20010000#32) = .next t) ∧
      ∃ t, step { presents duplicates 0x20010000#32 with mem := [] } = .next t :=
  ⟨by decide, by simp [ExecutesHalted], fun i h => (by cases h), ⟨_, rfl⟩, _, rfl⟩

theorem witness_CommandsWriteOnlyWhatTheTableAllows :
    Memory.wf shares.mem ∧ ∃ t, exec .lagr shares = .next t ∧ Memory.read t.mem 0x300 ≠ Memory.read shares.mem 0x300 ∧
      t.res ≠ shares.res ∧ t.wvalid ≠ shares.wvalid :=
  ⟨by decide, after (exec .lagr shares), rfl, by decide +kernel, by decide +kernel, by decide⟩

/-- Two states that differ in CS[3], VS[3] and XS[255] only, none of them in use. -/
theorem witness_EnginesIgnoreEntriesNotInUse :
    EngineCommand .lagr ∧ Memory.wf shares.mem ∧
      ∃ s' : State, Memory.wf s'.mem ∧ SameInUse shares s' ∧ s'.mem ≠ shares.mem := by
  refine ⟨trivial, by decide, { shares with
    mem := Memory.write (Memory.write (Memory.write shares.mem 0x203 0x99#8) 0x103 0x98#8) 0x0FF 0x97#8 }, by decide,
    ⟨rfl, by decide, by decide⟩, by decide⟩

theorem witness_WvalidFollowsItsRule :
    ∃ t, exec .lprep shares = .next t ∧ shares.err = 0x00#8 ∧ shares.wvalid = false := ⟨_, rfl, rfl, rfl⟩

theorem witness_ResIsWrittenByResultCommandsOnly :
    ∃ t t', exec (.gfadd 0x57#8 0x83#8) shares = .next t ∧ WritesRes (.gfadd 0x57#8 0x83#8) ∧ shares.err = 0x00#8 ∧
      t.err = 0x00#8 ∧ (.gfadd 0x57#8 0x83#8 : Instr) ≠ .csrr 0x05#8 ∧
      exec (.gfadd 0x57#8 0x83#8) { shares with res := 0x11#8 } = .next t' :=
  ⟨_, _, rfl, trivial, rfl, rfl, by decide, rfl⟩

theorem witness_ResponsesFollowTheirTable :
    WellFormed (.csrr 0x07#8) = true ∧ duplicates.err ≠ 0x00#8 ∧ ExecutesHalted (.csrr 0x07#8) ∧
      (.csrr 0x07#8 : Instr) ≠ .clr := ⟨rfl, by decide, .inr (.inr ⟨0x07#8, by decide, rfl⟩), by decide⟩

theorem witness_IrqIsIeAndFault :
    ∃ t, exec .ldot { shares with ie := true } = .next t ∧ t.err ≠ 0x00#8 ∧ t.irq = true :=
  ⟨after (exec .ldot { shares with ie := true }), rfl, by decide, by decide⟩

theorem witness_SplitChecksBeforeItDraws :
    (0x00#8 : Byte) = 0x00#8 ∧ (0x02#8 : Byte).toNat < (0x03#8 : Byte).toNat := by decide

theorem witness_TooFewSharesGiveNoSecret :
    ∃ h, parseHeader (recordOf 0x01#8) = some h ∧ [recordOf 0x01#8, recordOf 0x02#8].length < h.threshold.toNat ∧
      ∀ b ∈ [recordOf 0x01#8, recordOf 0x02#8], b.length = (recordOf 0x01#8).length ∧
        b.take 20 = (recordOf 0x01#8).take 20 ∧ b[20]? ≠ some 0x00#8 :=
  ⟨⟨Vector.replicate 16 0x00#8, 0x02#8, 0x03#8, 0x0000#16⟩, rfl, by decide, by decide⟩

end Sys2Proof.Tests
end

namespace Sys2Proof.Machine

/-! # The one outcome of every command (40_control R80)

A command is refused, takes a fault, or completes. `faultOf`, `effect` and `responseData` say which fault, which change
of the state and which response data; `exec_eq` says that `exec` does exactly this. -/

/-- `ExecutesHalted` as a test on the command (60_exceptions R187). -/
def executesHalted : Instr → Bool
  | .nop | .clr => true
  | .csrr csr => decide (CsrAssigned csr)
  | .csrw _ _ | .ld _ | .st _ _ | .ldseq | .gfadd _ _ | .gfmul _ _ | .gfdiv _ _ | .gfinv _ | .eval _ | .evaln
  | .lprep | .ldot | .lagr => false

/-- The fault a running block takes for a command, with its two detail bytes, or none (60_exceptions R182). -/
def faultOf (i : Instr) (s : State) : Option (FaultCode × Byte × Byte) :=
  match i with
  | .csrr csr => if CsrAssigned csr then none else some (.illegalCmd, 0x00#8, 0x00#8)
  | .csrw csr _ =>
    match csr.toNat with
    | 2 | 3 | 4 => none
    | 0 | 1 | 5 | 6 | 7 => some (.access, 0x00#8, csr)
    | _ => some (.illegalCmd, 0x00#8, 0x00#8)
  | .st addr _ => if addrBank addr = .lw then some (.access, 0x03#8, addrIndex addr) else none
  | .gfdiv _ b => if b = 0x00#8 then some (.divZero, 0x00#8, 0x00#8) else none
  | .gfinv a => if a = 0x00#8 then some (.divZero, 0x00#8, 0x00#8) else none
  | .eval x =>
    if s.m = 0x00#8 then some (.badParam, s.npts, s.m)
    else if x = 0x00#8 then some (.zeroPoint, 0x00#8, 0x00#8) else none
  | .evaln =>
    if s.m = 0x00#8 ∨ s.npts = 0x00#8 ∨ s.npts.toNat < s.m.toNat then some (.badParam, s.npts, s.m)
    else (firstZeroPoint s s.npts.toNat).map fun j => (.zeroPoint, indexByte j, indexByte j)
  | .lprep | .lagr => pcheck s
  | .ldot => if s.wvalid then none else some (.stale, 0x00#8, 0x00#8)
  | .nop | .clr | .ld _ | .ldseq | .gfadd _ _ | .gfmul _ _ => none

/-- The registers and arrays after a command that completes, before its response is given. -/
def effect (i : Instr) (s : State) : State :=
  match i with
  | .clr => s.wipe
  | .csrw csr val =>
    match csr.toNat with
    | 2 => s.setIe (val.getLsbD 0)
    | 3 => (s.setNpts val).clearWvalid
    | 4 => (s.setM val).clearWvalid
    | _ => s
  | .st addr data => memWrite addr data s
  | .ldseq => (s.fillBank .xs (fun j => indexByte (j + 1)) s.npts.toNat).clearWvalid
  | .gfadd a b => s.setRes (a ^^^ b)
  | .gfmul a b => s.setRes (gmul a b)
  | .gfdiv a b => s.setRes (gdiv a b)
  | .gfinv a => s.setRes (ginv a)
  | .eval x => s.setRes (peval s.cs s.m.toNat x)
  | .evaln => s.fillBank .vs (fun j => peval s.cs s.m.toNat (s.xs j)) s.npts.toNat
  | .lprep => s.prepare
  | .ldot => s.setRes s.interpolated
  | .lagr => s.prepare.setRes s.prepare.interpolated
  | .nop | .csrr _ | .ld _ => s

/-- The response data of a command that completes, from the state before it (40_control R87). -/
def responseData (i : Instr) (s : State) : Word :=
  match i with
  | .csrr csr => (csrValue csr s).getD 0x00000000#32
  | .ld addr => zext32 (memRead addr s)
  | .gfadd _ _ | .gfmul _ _ | .gfdiv _ _ | .gfinv _ | .eval _ | .ldot | .lagr => zext32 (effect i s).res
  | .nop | .clr | .csrw _ _ | .st _ _ | .ldseq | .evaln | .lprep => 0x00000000#32

/-- The state after a fault is taken: the record and the response, nothing else (60_exceptions R184). -/
def State.afterFault (s : State) (w : Word) (c : FaultCode) (hi lo : Byte) : State :=
  (s.record (faultCode c) w (hi ++ lo)).answer ⟨faultCode c, 0x00000000#32⟩

/-- The state after a command that completes: its effect and its response. -/
def completed (i : Instr) (s : State) : State := (effect i s).answer ⟨(effect i s).err, responseData i s⟩

/-- What a running block does with a command: it takes the command's fault, or completes it. -/
def runOutcome (i : Instr) (s : State) : State :=
  match faultOf i s with
  | some (c, hi, lo) => s.afterFault (encode i) c hi lo
  | none => completed i s

/-- The one next state of every command in every state: a command that does not execute while halted is refused
there. -/
def outcome (i : Instr) (s : State) : State :=
  if s.err ≠ 0x00#8 ∧ executesHalted i = false then s.answer ⟨s.err, 0x00000000#32⟩ else runOutcome i s

@[simp] theorem State.afterFault_err (s : State) (w : Word) (c : FaultCode) (hi lo : Byte) :
    (s.afterFault w c hi lo).err = faultCode c := rfl

@[simp] theorem completed_res (i : Instr) (s : State) : (completed i s).res = (effect i s).res := rfl

@[simp] theorem completed_err (i : Instr) (s : State) : (completed i s).err = (effect i s).err := rfl

@[simp] theorem completed_wvalid (i : Instr) (s : State) : (completed i s).wvalid = (effect i s).wvalid := rfl

@[simp] theorem completed_responses (i : Instr) (s : State) :
    (completed i s).responses = (effect i s).responses ++ [⟨(effect i s).err, responseData i s⟩] := rfl

theorem executesHalted_iff (i : Instr) : executesHalted i = true ↔ ExecutesHalted i := by
  cases i <;> simp [executesHalted, ExecutesHalted]

/-! ## The three shapes of an outcome -/

theorem faultOf_of_executesHalted {i : Instr} (h : executesHalted i = true) (s : State) : faultOf i s = none := by
  cases i with
  | nop | clr => rfl
  | csrr csr => exact if_pos (of_decide_eq_true h)
  | _ => cases h

theorem outcome_refused {i : Instr} {s : State} (hh : s.err ≠ 0x00#8) (hi : executesHalted i = false) :
    outcome i s = s.answer ⟨s.err, 0x00000000#32⟩ := if_pos ⟨hh, hi⟩

theorem outcome_fault {i : Instr} {s : State} {c : FaultCode} {hi lo : Byte} (hr : s.err = 0x00#8)
    (hf : faultOf i s = some (c, hi, lo)) : outcome i s = s.afterFault (encode i) c hi lo := by
  simp [outcome, runOutcome, hr, hf]

theorem outcome_completes {i : Instr} {s : State} (hx : s.err = 0x00#8 ∨ executesHalted i = true)
    (hf : faultOf i s = none) : outcome i s = completed i s := by
  rcases hx with hx | hx <;> simp [outcome, runOutcome, hx, hf]

/-- Every outcome is a refusal, a fault or a completion. -/
theorem outcome_cases (i : Instr) (s : State) :
    (s.err ≠ 0x00#8 ∧ executesHalted i = false ∧ outcome i s = s.answer ⟨s.err, 0x00000000#32⟩) ∨
    (∃ c hi lo, s.err = 0x00#8 ∧ faultOf i s = some (c, hi, lo) ∧ outcome i s = s.afterFault (encode i) c hi lo) ∨
    ((s.err = 0x00#8 ∨ executesHalted i = true) ∧ faultOf i s = none ∧ outcome i s = completed i s) := by
  by_cases hx : s.err = 0x00#8 ∨ executesHalted i = true
  · cases hf : faultOf i s with
    | none => exact .inr (.inr ⟨hx, rfl, outcome_completes hx hf⟩)
    | some f =>
      have hr : s.err = 0x00#8 := hx.resolve_right fun h => by simp [faultOf_of_executesHalted h] at hf
      exact .inr (.inl ⟨f.1, f.2.1, f.2.2, hr, rfl, outcome_fault hr hf⟩)
  · obtain ⟨hh, hi⟩ := not_or.mp hx
    have hi := Bool.eq_false_of_not_eq_true hi
    exact .inl ⟨hh, hi, outcome_refused hh hi⟩

/-! ## `exec` gives the outcome -/

/-- The CSR numbers with no value are the unassigned ones (10_state R25). -/
theorem csrValue_eq_none_iff (csr : Byte) (s : State) : csrValue csr s = none ↔ ¬ CsrAssigned csr := by
  unfold csrValue
  split <;> simp_all [CsrAssigned]
  omega

theorem execCsrr_eq (csr : Byte) (s : State) : execCsrr csr s = .next (outcome (.csrr csr) s) := by
  cases hv : csrValue csr s with
  | some v =>
    have ha : CsrAssigned csr := by simpa [hv] using csrValue_eq_none_iff csr s
    rw [outcome_completes (i := .csrr csr) (.inr (decide_eq_true ha)) (if_pos ha)]
    simp [execCsrr, completed, effect, responseData, hv, respond_eq]
  | none =>
    have ha := (csrValue_eq_none_iff csr s).mp hv
    have hf : faultOf (.csrr csr) s = some (.illegalCmd, 0x00#8, 0x00#8) := if_neg ha
    by_cases hr : s.err = 0x00#8
    · simp [execCsrr, hv, execIllegal_eq, hr, outcome_fault hr hf, State.afterFault, faultCode]
    · simp [execCsrr, hv, execIllegal_eq, hr, outcome_refused (i := .csrr csr) hr (decide_eq_false ha)]

/-- A command behind the halted gate is given by what it does while running. -/
theorem whenRunning_eq_outcome {i : Instr} {s : State} {run : Result} (hi : executesHalted i = false)
    (h : s.err = 0x00#8 → run = .next (runOutcome i s)) : whenRunning s run = .next (outcome i s) := by
  by_cases hr : s.err = 0x00#8
  · simp [whenRunning_running hr, h hr, outcome, hr]
  · rw [whenRunning_halted hr, outcome_refused hr hi]

/-- Every command has exactly one next state, its outcome (40_control R80). -/
theorem exec_eq (i : Instr) (s : State) : exec i s = .next (outcome i s) := by
  cases i with
  | nop | clr => rw [outcome_completes (.inr rfl) rfl]; rfl
  | csrr csr => exact execCsrr_eq csr s
  | csrw csr val =>
    refine whenRunning_eq_outcome rfl fun hr => ?_
    simp only [runOutcome, faultOf, completed, effect, responseData]
    split <;> simp_all [respond_eq, raiseFault_eq, execIllegal_eq, State.afterFault, faultCode]
  | ld | ldseq | gfadd | gfmul => exact whenRunning_eq_outcome rfl fun _ => rfl
  | gfdiv | gfinv | ldot =>
    refine whenRunning_eq_outcome rfl fun _ => ?_
    simp only [runOutcome, faultOf]
    split <;> rfl
  | st addr data =>
    refine whenRunning_eq_outcome rfl fun _ => ?_
    simp only [runOutcome, faultOf]
    cases addrBank addr <;> rfl
  | eval x =>
    refine whenRunning_eq_outcome rfl fun _ => ?_
    simp only [runOutcome, faultOf]
    split
    · rfl
    · split <;> rfl
  | evaln =>
    refine whenRunning_eq_outcome rfl fun _ => ?_
    simp only [runOutcome, faultOf]
    split
    · rfl
    · cases firstZeroPoint s s.npts.toNat <;> rfl
  | lprep | lagr =>
    refine whenRunning_eq_outcome rfl fun _ => ?_
    simp only [runOutcome, faultOf, whenPointsGood]
    cases pcheck s <;> rfl

/-! ## What a completed command leaves unchanged -/

theorem effect_of_executesHalted {i : Instr} (h : executesHalted i = true) (s : State) :
    effect i s = if i = .clr then s.wipe else s := by
  cases i with
  | nop | clr | csrr => rfl
  | _ => cases h

/-- No command but CLR touches the fault record when it completes, and none touches the ports. -/
theorem effect_frame {i : Instr} (h : i ≠ .clr) (s : State) :
    effect i s = { effect i s with
      err := s.err, ecmd := s.ecmd, eidx := s.eidx, pending := s.pending, responses := s.responses } := by
  cases i with
  | clr => exact absurd rfl h
  | csrw => simp only [effect]; split <;> rfl
  | st => simp only [effect, memWrite]; split <;> rfl
  | _ => rfl

theorem effect_err (i : Instr) (s : State) : (effect i s).err = if i = .clr then 0x00#8 else s.err := by
  by_cases hc : i = .clr
  · subst hc
    rfl
  · rw [if_neg hc, effect_frame hc]

theorem effect_responses (i : Instr) (s : State) : (effect i s).responses = s.responses := by
  by_cases hc : i = .clr
  · subst hc
    rfl
  · rw [effect_frame hc]

/-- A command that completes and leaves ERR set is NOP or CSRR in the halted state. -/
theorem effect_eq_self_of_err {i : Instr} {s : State} (hx : s.err = 0x00#8 ∨ executesHalted i = true)
    (h : (effect i s).err ≠ 0x00#8) : effect i s = s := by
  rw [effect_err] at h
  by_cases hc : i = .clr
  · exact absurd (if_pos hc) h
  · rw [if_neg hc] at h
    rw [effect_of_executesHalted (hx.resolve_left h), if_neg hc]

/-- With ERR clear after it, a command has completed. -/
theorem outcome_of_err_eq_zero {i : Instr} {s : State} (h : (outcome i s).err = 0x00#8) :
    outcome i s = completed i s := by
  rcases outcome_cases i s with ⟨hh, -, ho⟩ | ⟨c, hi, lo, -, -, ho⟩ | ⟨-, -, ho⟩
  · rw [ho] at h
    exact absurd h hh
  · rw [ho] at h
    exact absurd h (faultCode_ne_zero c)
  · exact ho

/-- With ERR set after it, a command has changed at most the fault record and the response port
(60_exceptions R184, R188). -/
theorem outcome_frame_of_err {i : Instr} {s : State} (h : (outcome i s).err ≠ 0x00#8) :
    outcome i s = { s with
      err := (outcome i s).err, ecmd := (outcome i s).ecmd, eidx := (outcome i s).eidx,
      responses := (outcome i s).responses } := by
  rcases outcome_cases i s with ⟨-, -, ho⟩ | ⟨c, hi, lo, -, -, ho⟩ | ⟨hx, -, ho⟩ <;> rw [ho] at h ⊢
  · rfl
  · rfl
  · rw [completed, effect_eq_self_of_err hx h]
    rfl

/-! # The point check (44_lagrange R132) -/

theorem firstZeroPoint_eq_none_iff (s : State) (n : Nat) :
    firstZeroPoint s n = none ↔ ∀ k, k < n → s.xs k ≠ 0x00#8 := by
  simp [firstZeroPoint]

theorem firstDuplicate_eq_none_iff (s : State) (n : Nat) :
    firstDuplicate s n = none ↔ ∀ l, l < n → ∀ k, k < l → s.xs k ≠ s.xs l := by
  simp only [firstDuplicate, List.findSome?_eq_none_iff, List.mem_range, Option.map_eq_none_iff, List.find?_eq_none,
    List.mem_range'_1, beq_iff_eq]
  constructor
  · intro h l hl k hk
    exact h k (by omega) l (by omega)
  · intro h k _ l hl
    exact h l (by omega) k (by omega)

theorem firstDuplicate_eq_some {s : State} {n k l : Nat} (h : firstDuplicate s n = some (k, l)) :
    k < l ∧ l < n ∧ s.xs k = s.xs l := by
  obtain ⟨_, hkn, hmap⟩ := List.exists_of_findSome?_eq_some h
  obtain ⟨_, hfind, hpair⟩ := Option.map_eq_some_iff.mp hmap
  obtain ⟨rfl, rfl⟩ := Prod.mk.inj hpair
  have hkn := List.mem_range.mp hkn
  have hl := List.mem_range'_1.mp (List.mem_of_find?_eq_some hfind)
  exact ⟨by omega, by omega, beq_iff_eq.mp (List.find?_some hfind :)⟩

theorem pcheck_eq_none_iff (s : State) : pcheck s = none ↔ s.PointsGood := by
  have hn : s.npts = 0x00#8 ↔ s.npts.toNat = 0 := by simp [← BitVec.toNat_inj]
  rw [State.PointsGood, ← firstZeroPoint_eq_none_iff, ← firstDuplicate_eq_none_iff, pcheck]
  by_cases h0 : s.npts = 0x00#8
  · simp [h0]
  · have hpos : 1 ≤ s.npts.toNat := Nat.pos_of_ne_zero (hn.not.mp h0)
    simp only [if_neg h0, hpos, true_and]
    cases firstZeroPoint s s.npts.toNat with
    | some k => simp
    | none =>
      by_cases hm : s.npts.toNat < s.m.toNat
      · simp [hm]
      · cases firstDuplicate s s.npts.toNat <;> simp [hm, Nat.le_of_not_lt hm]

/-! # The detail of a fault (60_exceptions R181) -/

/-- The detail bytes are those the code promises: the counts for BAD_PARAM and INSUFFICIENT, the indices of two equal
points in use for DUP_POINT. -/
def DetailFits (s : State) (c : FaultCode) (hi lo : Byte) : Prop :=
  (c = .badParam ∨ c = .insufficient → hi = s.npts ∧ lo = s.m) ∧
  (c = .dupPoint → ∃ k l, k < l ∧ l < s.npts.toNat ∧ s.xs k = s.xs l ∧ hi = indexByte k ∧ lo = indexByte l)

theorem pcheck_detailFits {s : State} {c : FaultCode} {hi lo : Byte} (h : pcheck s = some (c, hi, lo)) :
    DetailFits s c hi lo := by
  unfold pcheck at h
  split at h
  · cases h
    simp [DetailFits]
  split at h
  · cases h
    simp [DetailFits]
  split at h
  · cases h
    simp [DetailFits]
  split at h
  · rename_i k l hd
    cases h
    obtain ⟨hkl, hl, hx⟩ := firstDuplicate_eq_some hd
    exact ⟨by simp, fun _ => ⟨k, l, hkl, hl, hx, rfl, rfl⟩⟩
  · cases h

theorem faultOf_detailFits {i : Instr} {s : State} {c : FaultCode} {hi lo : Byte}
    (h : faultOf i s = some (c, hi, lo)) : DetailFits s c hi lo := by
  cases i with
  | nop | clr | ld | ldseq | gfadd | gfmul => cases h
  | lprep | lagr => exact pcheck_detailFits h
  | csrr | csrw | st | gfdiv | gfinv | ldot =>
    simp only [faultOf] at h
    split at h <;> cases h <;> simp [DetailFits]
  | eval =>
    simp only [faultOf] at h
    split at h
    · cases h
      simp [DetailFits]
    · split at h <;> cases h
      simp [DetailFits]
  | evaln =>
    simp only [faultOf] at h
    split at h
    · cases h
      simp [DetailFits]
    · obtain ⟨j, -, he⟩ := Option.map_eq_some_iff.mp h
      cases he
      simp [DetailFits]

/-! # The recorded word is not the NOP word (10_state R23) -/

theorem wordOp_encode (i : Instr) : wordOp (encode i) = opcodeOf i := by
  cases i <;> simp [encode, opcodeOf]

theorem opcodeOf_ne_zero {i : Instr} (h : i ≠ .nop) : opcodeOf i ≠ 0x00#8 := by
  cases i with
  | nop => exact absurd rfl h
  | _ => simp [opcodeOf]

theorem encode_ne_zero {i : Instr} (h : i ≠ .nop) : encode i ≠ 0x00000000#32 := fun he =>
  opcodeOf_ne_zero h (by rw [← wordOp_encode, he]; rfl)

theorem encode_ne_zero_of_faultOf {i : Instr} {s : State} {c : FaultCode} {hi lo : Byte}
    (h : faultOf i s = some (c, hi, lo)) : encode i ≠ 0x00000000#32 :=
  encode_ne_zero (by rintro rfl; cases h)

theorem decode_zero : decode 0x00000000#32 = .ok .nop := rfl

theorem ne_zero_of_decode_error {w : Word} {e : Illegal} (h : decode w = .error e) : w ≠ 0x00000000#32 := by
  rintro rfl
  cases decode_zero.symm.trans h

/-! # What every step keeps -/

/-- A predicate that says nothing of the ports, holds after a reset pulse, and is kept by every fault with its true
detail and by the effect of every command, is kept by every step. -/
theorem step_keeps {P : State → Prop}
    (hports : ∀ s p r, P s → P { s with pending := p, responses := r })
    (hreset : ∀ s, P (pulseReset s))
    (hfault : ∀ s w c hi lo, P s → w ≠ 0x00000000#32 → DetailFits s c hi lo →
      P (s.record (faultCode c) w (hi ++ lo)))
    (heffect : ∀ i s, P s → (s.err = 0x00#8 ∨ executesHalted i = true) → faultOf i s = none → P (effect i s))
    {s t : State} (hs : P s) (h : step s = .next t) : P t := by
  have hanswer (u : State) (r : Response) (hu : P u) : P (u.answer r) := hports u u.pending _ hu
  have hcommand (i : Instr) (u : State) (hu : P u) : P (outcome i u) := by
    rcases outcome_cases i u with ⟨-, -, ho⟩ | ⟨c, hi, lo, -, hf, ho⟩ | ⟨hx, hf, ho⟩ <;> rw [ho]
    · exact hanswer _ _ hu
    · exact hanswer _ _ (hfault u _ c hi lo hu (encode_ne_zero_of_faultOf hf) (faultOf_detailFits hf))
    · exact hanswer _ _ (heffect i u hu hx hf)
  unfold step at h
  split at h
  case h_1 =>
    cases h
    exact hs
  case h_3 =>
    cases h
    exact hreset _
  case h_2 w rest _ =>
    have hu : P (s.withPending rest) := hports s rest s.responses hs
    unfold execWord at h
    split at h
    · rename_i i _
      rw [exec_eq] at h
      cases h
      exact hcommand i _ hu
    · rename_i e hd
      have hfits : DetailFits (s.withPending rest) .illegalCmd 0x00#8 0x00#8 := by simp [DetailFits]
      rw [execIllegal_eq] at h
      split at h <;> cases h
      · exact hanswer _ _ (hfault _ w _ _ _ hu (ne_zero_of_decode_error hd) hfits)
      · exact hanswer _ _ hu

/-! # The fault record -/

theorem recordSound_of_running {s : State} (h : s.err = 0x00#8) (hc : s.ecmd = 0x00000000#32)
    (hd : s.eidx = 0x0000#16) : s.RecordSound := by
  simp [State.RecordSound, h, hc, hd]

theorem recordSound_record {s : State} {w : Word} {c : FaultCode} {hi lo : Byte} (hw : w ≠ 0x00000000#32)
    (hd : DetailFits s c hi lo) : (s.record (faultCode c) w (hi ++ lo)).RecordSound := by
  obtain ⟨hcounts, hdup⟩ := hd
  refine ⟨fun h => absurd h (faultCode_ne_zero c), fun _ => hw, faultCode_le c, fun h => ?_, fun h => ?_⟩
  · obtain ⟨rfl, rfl⟩ := hcounts (by cases c <;> simp_all [faultCode])
    rfl
  · obtain ⟨k, l, hkl, hl, hx, rfl, rfl⟩ := hdup (by cases c <;> simp_all [faultCode])
    exact ⟨k, l, hkl, hl, hx, rfl⟩

theorem recordSound_effect {i : Instr} {s : State} (hs : s.RecordSound)
    (hx : s.err = 0x00#8 ∨ executesHalted i = true) : (effect i s).RecordSound := by
  by_cases hc : i = .clr
  · subst hc
    exact recordSound_of_running rfl rfl rfl
  rcases hx with hr | hx
  · obtain ⟨hecmd, heidx⟩ := hs.1 hr
    rw [effect_frame hc]
    exact recordSound_of_running hr hecmd heidx
  · rwa [effect_of_executesHalted hx, if_neg hc]

/-- Settles O43, with `State.RecordSound` as the predicate that every step keeps. -/
theorem faultRecordInvariantIsKept : Obligations.FaultRecordInvariantIsKept := fun _ _ hs h =>
  step_keeps (P := State.RecordSound) (fun _ _ _ hs => hs) (fun _ => recordSound_of_running rfl rfl rfl)
    (fun _ _ _ _ _ _ hw hd => recordSound_record hw hd) (fun _ _ hs hx _ => recordSound_effect hs hx) hs h

/-! # The weights

Soundness of the weights reads WVALID, NPTS, M, XS and LW only, and of the arrays only entries below 256. -/

theorem weight_congr {x y : Nat → Byte} {n k : Nat} (h : ∀ l, l < n → x l = y l) (hk : k < n) :
    weight x n k = weight y n k := by
  refine List.foldl_ext _ _ _ fun r l hl => ?_
  rw [h l (List.mem_range.mp hl), h k hk]

section
variable {s t : State} (hx : ∀ k, k < 256 → t.xs k = s.xs k) (hn : t.npts = s.npts)
include hx hn

theorem pointsGood_congr (hm : t.m = s.m) (hs : s.PointsGood) : t.PointsGood := by
  have hlt : s.npts.toNat < 256 := s.npts.isLt
  obtain ⟨hpos, hle, hnz, hne⟩ := hs
  rw [State.PointsGood, hn, hm]
  refine ⟨hpos, hle, fun k hk => ?_, fun l hl k hk => ?_⟩
  · rw [hx k (by omega)]
    exact hnz k hk
  · rw [hx k (by omega), hx l (by omega)]
    exact hne l hl k hk

theorem weightOf_congr {k : Nat} (hk : k < s.npts.toNat) : t.weightOf k = s.weightOf k := by
  have hlt : s.npts.toNat < 256 := s.npts.isLt
  rw [State.weightOf, State.weightOf, hn]
  exact weight_congr (fun l hl => hx l (by omega)) hk

theorem weightsSound_congr (hm : t.m = s.m) (hw : t.wvalid = s.wvalid) (hl : ∀ k, k < 256 → t.lw k = s.lw k)
    (hs : s.WeightsSound) : t.WeightsSound := by
  have hlt : s.npts.toNat < 256 := s.npts.isLt
  intro hv
  obtain ⟨hgood, hlw⟩ := hs (hw ▸ hv)
  refine ⟨pointsGood_congr hx hn hm hgood, fun k hk => ?_⟩
  rw [hn] at hk
  rw [hl k (by omega), weightOf_congr hx hn hk, hlw k hk]

end

theorem weightsSound_of_stale {s : State} (h : s.wvalid = false) : s.WeightsSound := fun hv => by simp [h] at hv

theorem weightsSound_setEntry {s : State} (hwf : Memory.wf s.mem) (hs : s.WeightsSound) {b : Bank} (hx : b ≠ .xs)
    (hl : b ≠ .lw) {i : Nat} (hi : i < 256) (v : Byte) : (s.setEntry b i v).WeightsSound :=
  weightsSound_congr (s := s) (fun _ hk => (State.entry_setEntry hwf b .xs v hi hk).trans (if_neg fun h => hx h.1.symm))
    rfl rfl rfl (fun _ hk => (State.entry_setEntry hwf b .lw v hi hk).trans (if_neg fun h => hl h.1.symm)) hs

theorem weightsSound_fillBank {s : State} (hwf : Memory.wf s.mem) (hs : s.WeightsSound) {b : Bank} (hx : b ≠ .xs)
    (hl : b ≠ .lw) (f : Nat → Byte) {n : Nat} (hn : n ≤ 256) : (s.fillBank b f n).WeightsSound :=
  weightsSound_congr (s := s) (fun _ hk => (State.entry_fillBank hwf b .xs f hn hk).trans (if_neg fun h => hx h.1.symm))
    rfl rfl rfl (fun _ hk => (State.entry_fillBank hwf b .lw f hn hk).trans (if_neg fun h => hl h.1.symm)) hs

/-- From good points LPREP and LAGR leave sound weights (44_lagrange R133). -/
theorem weightsSound_prepare {s : State} (hwf : Memory.wf s.mem) (hs : s.PointsGood) : s.prepare.WeightsSound := by
  have hlt : s.npts.toNat < 256 := s.npts.isLt
  have hx (k : Nat) (hk : k < 256) : s.prepare.xs k = s.xs k :=
    (State.entry_fillBank hwf .lw .xs s.weightOf hlt.le hk).trans (if_neg (by simp))
  refine fun _ => ⟨pointsGood_congr hx rfl rfl hs, fun k (hk : k < s.npts.toNat) => ?_⟩
  rw [weightOf_congr hx rfl hk]
  exact (State.entry_fillBank hwf .lw .lw s.weightOf hlt.le (by omega)).trans (if_pos ⟨rfl, hk⟩)

theorem wf_effect {s : State} (h : Memory.wf s.mem) (i : Instr) : Memory.wf (effect i s).mem := by
  cases i with
  | clr => exact Memory.wf_nil
  | csrw => simp only [effect]; split <;> exact h
  | st addr data => exact wf_memWrite h addr data
  | ldseq | evaln | lprep | lagr => exact wf_fillBank h _ _ s.npts.isLt.le
  | _ => exact h

theorem weightsSound_memWrite {s : State} (hwf : Memory.wf s.mem) (hs : s.WeightsSound) (addr : BitVec 10) (v : Byte) :
    (memWrite addr v s).WeightsSound := by
  have hi : (addrIndex addr).toNat < 256 := (addrIndex addr).isLt
  unfold memWrite
  cases addrBank addr with
  | xs => exact weightsSound_of_stale rfl
  | vs | cs => exact weightsSound_setEntry hwf hs (by decide) (by decide) hi v
  | lw => exact hs

theorem weightsSound_effect {i : Instr} {s : State} (hwf : Memory.wf s.mem) (hs : s.WeightsSound)
    (hf : faultOf i s = none) : (effect i s).WeightsSound := by
  cases i with
  | clr | ldseq => exact weightsSound_of_stale rfl
  | csrw =>
    simp only [effect]
    split
    case h_2 | h_3 => exact weightsSound_of_stale rfl
    all_goals exact hs
  | st addr data => exact weightsSound_memWrite hwf hs addr data
  | evaln => exact weightsSound_fillBank hwf hs (by decide) (by decide) _ s.npts.isLt.le
  | lprep | lagr => exact weightsSound_prepare hwf ((pcheck_eq_none_iff s).mp hf)
  | _ => exact hs

/-- Settles O42: the canonical form and the soundness of the weights are kept together. -/
theorem weightsInvariantIsKept : Obligations.WeightsInvariantIsKept := fun _ _ hwf hs h =>
  step_keeps (P := fun s => Memory.wf s.mem ∧ s.WeightsSound) (fun _ _ _ hs => hs)
    (fun _ => ⟨Memory.wf_nil, weightsSound_of_stale rfl⟩) (fun _ _ _ _ _ hs _ _ => hs)
    (fun i _ ⟨hwf, hs⟩ _ hf => ⟨wf_effect hwf i, weightsSound_effect hwf hs hf⟩) ⟨hwf, hs⟩ h

/-! # WVALID (10_state R13) -/

/-- A local address is its bank's first address plus the index within the array (20_memory R41). -/
theorem toNat_eq_bankBase_add_index (addr : BitVec 10) :
    addr.toNat = bankBase (addrBank addr) + (addrIndex addr).toNat := by
  have hlt : addr.toNat < 1024 := addr.isLt
  have hb : (addr.extractLsb' 8 2).toNat = addr.toNat / 256 := by
    simp only [BitVec.extractLsb'_toNat, Nat.shiftRight_eq_div_pow]
    omega
  have hi : (addrIndex addr).toNat = addr.toNat % 256 := by simp [addrIndex, BitVec.extractLsb'_toNat]
  unfold addrBank
  rw [hb, hi]
  rcases (by omega : addr.toNat / 256 = 0 ∨ addr.toNat / 256 = 1 ∨ addr.toNat / 256 = 2 ∨ addr.toNat / 256 = 3)
    with h | h | h | h <;> simp only [h, bankBase] <;> omega

theorem addrBank_eq_xs_iff (addr : BitVec 10) : addrBank addr = .xs ↔ addr.toNat < 0x100 := by
  have hi : (addrIndex addr).toNat < 256 := (addrIndex addr).isLt
  rw [toNat_eq_bankBase_add_index addr]
  cases addrBank addr <;> simp [bankBase] <;> omega

theorem memWrite_wvalid (addr : BitVec 10) (v : Byte) (s : State) :
    (memWrite addr v s).wvalid = if addr.toNat < 0x100 then false else s.wvalid := by
  simp only [← addrBank_eq_xs_iff]
  unfold memWrite
  cases addrBank addr <;> rfl

theorem effect_wvalid (i : Instr) (s : State) : (effect i s).wvalid = wvalidAfter i s := by
  cases i with
  | csrw csr val =>
    have h3 : csr = 0x03#8 ↔ csr.toNat = 3 := by simp [← BitVec.toNat_inj]
    have h4 : csr = 0x04#8 ↔ csr.toNat = 4 := by simp [← BitVec.toNat_inj]
    simp only [effect, wvalidAfter, h3, h4]
    split <;> simp_all
  | st addr data => exact memWrite_wvalid addr data s
  | _ => rfl

theorem outcome_wvalid (i : Instr) (s : State) :
    (outcome i s).wvalid = if (outcome i s).err = 0x00#8 then wvalidAfter i s else s.wvalid := by
  by_cases he : (outcome i s).err = 0x00#8
  · rw [if_pos he, outcome_of_err_eq_zero he, completed_wvalid, effect_wvalid]
  · rw [if_neg he, outcome_frame_of_err he]

theorem outcome_ldot_stale {s : State} (hr : s.err = 0x00#8) (hw : s.wvalid = false) :
    outcome .ldot s = s.afterFault (encode .ldot) .stale 0x00#8 0x00#8 :=
  outcome_fault hr (by simp [faultOf, hw])

/-- STATUS bit 8 (10_state R17). -/
theorem statusValue_getLsbD_wvalid (s : State) : (statusValue s).getLsbD 8 = s.wvalid := by
  simp only [statusValue, BitVec.getLsbD_setWidth, BitVec.getLsbD_append]
  cases s.wvalid <;> rfl

/-- Settles O52. -/
theorem wvalidFollowsItsRule : Obligations.WvalidFollowsItsRule := by
  refine ⟨fun i s t h => ?_, fun s hr hw => ?_, fun s => ⟨_, rfl, statusValue_getLsbD_wvalid s⟩, rfl⟩
  · rw [exec_eq] at h
    cases h
    exact outcome_wvalid i s
  · exact ⟨s.afterFault (encode .ldot) .stale 0x00#8 0x00#8, by rw [exec_eq, outcome_ldot_stale hr hw], rfl, hw⟩

/-! # RES (10_state R11) -/

theorem effect_res {i : Instr} (hw : ¬ WritesRes i) (hc : i ≠ .clr) (s : State) : (effect i s).res = s.res := by
  cases i with
  | clr => exact absurd rfl hc
  | csrw => simp only [effect]; split <;> rfl
  | st => simp only [effect, memWrite]; split <;> rfl
  | nop | csrr | ld | ldseq | evaln | lprep => rfl
  | gfadd | gfmul | gfdiv | gfinv | eval | ldot | lagr => exact absurd trivial hw

theorem outcome_res_of_err {i : Instr} {s : State} (h : (outcome i s).err ≠ 0x00#8) : (outcome i s).res = s.res := by
  rw [outcome_frame_of_err h]

theorem outcome_res {i : Instr} (hw : ¬ WritesRes i) (hc : i ≠ .clr) (s : State) : (outcome i s).res = s.res := by
  by_cases he : (outcome i s).err = 0x00#8
  · rw [outcome_of_err_eq_zero he, completed_res, effect_res hw hc]
  · exact outcome_res_of_err he

theorem outcome_clr (s : State) : outcome .clr s = s.wipe.answer ⟨0x00#8, 0x00000000#32⟩ :=
  outcome_completes (.inr rfl) rfl

theorem responseData_of_writesRes {i : Instr} (h : WritesRes i) (s : State) :
    responseData i s = zext32 (effect i s).res := by
  cases i with
  | gfadd | gfmul | gfdiv | gfinv | eval | ldot | lagr => rfl
  | _ => cases h

theorem outcome_responses_of_writesRes {i : Instr} {s : State} (hw : WritesRes i)
    (he : (outcome i s).err = 0x00#8) :
    (outcome i s).responses = s.responses ++ [⟨0x00#8, (outcome i s).res.setWidth 32⟩] := by
  have ho := outcome_of_err_eq_zero he
  rw [ho] at he ⊢
  rw [completed_responses, effect_responses, responseData_of_writesRes hw, ← completed_err, he]
  rfl

/-! ## No command reads RES, but CSRR of RES -/

theorem faultOf_setRes (i : Instr) (s : State) (v : Byte) : faultOf i (s.setRes v) = faultOf i s := by
  cases i <;> rfl

theorem effect_setRes (i : Instr) (s : State) (v : Byte) :
    effect i (s.setRes v) = (effect i s).setRes (effect i (s.setRes v)).res := by
  cases i with
  | csrw => simp only [effect]; split <;> rfl
  | st => simp only [effect, memWrite]; split <;> rfl
  | _ => rfl

theorem csrValue_setRes {csr : Byte} (h : csr ≠ 0x05#8) (s : State) (v : Byte) :
    csrValue csr (s.setRes v) = csrValue csr s := by
  unfold csrValue
  split
  case h_6 h5 => exact absurd (BitVec.eq_of_toNat_eq h5) h
  all_goals rfl

theorem responseData_setRes {i : Instr} (h : i ≠ .csrr 0x05#8) (s : State) (v : Byte) :
    responseData i (s.setRes v) = responseData i s := by
  cases i with
  | csrr csr => simp only [responseData, csrValue_setRes (fun he => h (he ▸ rfl))]
  | _ => rfl

theorem completed_setRes {i : Instr} (h : i ≠ .csrr 0x05#8) (s : State) (v : Byte) :
    completed i (s.setRes v) = (completed i s).setRes (completed i (s.setRes v)).res := by
  unfold completed
  rw [responseData_setRes h, effect_setRes]
  rfl

theorem outcome_setRes {i : Instr} (h : i ≠ .csrr 0x05#8) (s : State) (v : Byte) :
    outcome i (s.setRes v) = (outcome i s).setRes (outcome i (s.setRes v)).res := by
  unfold outcome runOutcome
  rw [faultOf_setRes, State.setRes_err]
  split
  · rfl
  · cases faultOf i s with
    | none => exact completed_setRes h s v
    | some f => rfl

/-- Settles O53. -/
theorem resIsWrittenByResultCommandsOnly : Obligations.ResIsWrittenByResultCommandsOnly := by
  refine ⟨fun i s t h => ?_, fun i s t t' v hi ht ht' => ?_, rfl, fun s rest hp => ?_⟩
  · rw [exec_eq] at h
    cases h
    exact ⟨fun hw _ he => outcome_responses_of_writesRes hw he, fun hc => by rw [hc, outcome_clr]; rfl,
      fun hw hc => outcome_res hw hc s, outcome_res_of_err⟩
  · rw [exec_eq] at ht ht'
    cases ht
    cases ht'
    exact outcome_setRes hi s v
  · exact ⟨pulseReset (s.withPending rest), by simp [step, hp], rfl⟩

/-! # The reset state (10_state R32) -/

/-- Settles O1: the reset state and the wiped state are their own equations. -/
theorem resetLeavesEveryValueZero : Obligations.ResetLeavesEveryValueZero :=
  ⟨rfl, rfl, rfl, rfl, rfl, rfl, rfl, rfl, fun _ _ => Memory.read_nil _, rfl,
    fun s => by rw [exec_eq, outcome_clr, State.wipe_eq]; rfl⟩

/-- Settles O44: the arrays are empty, WVALID is clear and no fault is recorded. -/
theorem resetStateIsSound : Obligations.ResetStateIsSound :=
  ⟨Memory.wf_nil, weightsSound_of_stale rfl, recordSound_of_running rfl rfl rfl⟩

end Sys2Proof.Machine

namespace Sys2Proof.Machine

/-! # The writes of every command (20_memory R53) -/

/-- A field outside the fault record and the response port differs after a command only if the command completes, and
then it is as the command's effect leaves it. -/
theorem outcome_eq_effect_of_ne {α : Type} {F : State → α}
    (hF : ∀ (s : State) e w d r, F { s with err := e, ecmd := w, eidx := d, responses := r } = F s)
    {i : Instr} {s : State} (h : F (outcome i s) ≠ F s) :
    (s.err = 0x00#8 ∨ executesHalted i = true) ∧ F (outcome i s) = F (effect i s) := by
  rcases outcome_cases i s with ⟨-, -, ho⟩ | ⟨c, hi, lo, -, -, ho⟩ | ⟨hx, -, ho⟩ <;> rw [ho] at h ⊢
  · exact absurd (hF s _ _ _ _) h
  · exact absurd (hF s _ _ _ _) h
  · exact ⟨hx, hF (effect i s) _ _ _ _⟩

/-! ## The local space -/

theorem addrBank_eq_lw_iff (addr : BitVec 10) : addrBank addr = .lw ↔ 0x300 ≤ addr.toNat := by
  have hi : (addrIndex addr).toNat < 256 := (addrIndex addr).isLt
  rw [toNat_eq_bankBase_add_index addr]
  cases addrBank addr <;> simp [bankBase] <;> omega

/-- A store writes the byte at the operand address, and nothing in the bank of the weights (20_memory R42). -/
theorem memWrite_mem (addr : BitVec 10) (v : Byte) (s : State) :
    (memWrite addr v s).mem = if 0x300 ≤ addr.toNat then s.mem else Memory.write s.mem addr.toNat v := by
  simp only [← addrBank_eq_lw_iff]
  unfold memWrite
  cases hb : addrBank addr <;> simp [toNat_eq_bankBase_add_index addr, hb]

theorem mem_range_of_read_fillBank_ne {s : State} (hwf : Memory.wf s.mem) {b : Bank} {f : Nat → Byte} {n a : Nat}
    (h : Memory.read (s.fillBank b f n).mem a ≠ Memory.read s.mem a) : bankBase b ≤ a ∧ a < bankBase b + n := by
  rw [State.fillBank_mem, Memory.read_fill hwf.sorted] at h
  exact Decidable.byContradiction fun hr => h (if_neg hr)

theorem storesTo_of_read_effect_ne {i : Instr} {s : State} (hwf : Memory.wf s.mem) {a : Nat}
    (h : Memory.read (effect i s).mem a ≠ Memory.read s.mem a) : StoresTo i s a := by
  cases i with
  | clr => trivial
  | csrw =>
    simp only [effect] at h
    split at h <;> exact absurd rfl h
  | st addr data =>
    simp only [effect, memWrite_mem] at h
    split at h
    · exact absurd rfl h
    · rw [Memory.read_write hwf.sorted] at h
      exact ⟨Decidable.byContradiction fun hr => h (if_neg hr), by omega⟩
  | ldseq =>
    obtain ⟨-, hlt⟩ := mem_range_of_read_fillBank_ne (b := .xs) hwf h
    exact hlt.trans_eq (Nat.zero_add _)
  | evaln => exact mem_range_of_read_fillBank_ne (b := .vs) hwf h
  | lprep | lagr => exact mem_range_of_read_fillBank_ne (b := .lw) hwf h
  | nop | csrr | ld | gfadd | gfmul | gfdiv | gfinv | eval | ldot => exact absurd rfl h

theorem storesTo_of_read_outcome_ne {i : Instr} {s : State} (hwf : Memory.wf s.mem) {a : Nat}
    (h : Memory.read (outcome i s).mem a ≠ Memory.read s.mem a) : StoresTo i s a := by
  obtain ⟨-, he⟩ := outcome_eq_effect_of_ne (F := fun u => Memory.read u.mem a) (fun _ _ _ _ _ => rfl) h
  exact storesTo_of_read_effect_ne hwf (he ▸ h)

/-! ## The registers -/

/-- NPTS, M and IE are written by their own CSRW, and the counts by CLR too. -/
theorem effect_npts_m_ie (i : Instr) (s : State) :
    ((effect i s).npts = s.npts ∨ i = .clr ∨ ∃ val, i = .csrw 0x03#8 val) ∧
    ((effect i s).m = s.m ∨ i = .clr ∨ ∃ val, i = .csrw 0x04#8 val) ∧
    ((effect i s).ie = s.ie ∨ ∃ val, i = .csrw 0x02#8 val ∧ (effect i s).ie = val.getLsbD 0) := by
  cases i with
  | clr => exact ⟨.inr (.inl rfl), .inr (.inl rfl), .inl rfl⟩
  | csrw csr val =>
    simp only [effect]
    split
    case h_1 hn =>
      obtain rfl : csr = 0x02#8 := BitVec.eq_of_toNat_eq hn
      exact ⟨.inl rfl, .inl rfl, .inr ⟨val, rfl, rfl⟩⟩
    case h_2 hn =>
      obtain rfl : csr = 0x03#8 := BitVec.eq_of_toNat_eq hn
      exact ⟨.inr (.inr ⟨val, rfl⟩), .inl rfl, .inl rfl⟩
    case h_3 hn =>
      obtain rfl : csr = 0x04#8 := BitVec.eq_of_toNat_eq hn
      exact ⟨.inl rfl, .inr (.inr ⟨val, rfl⟩), .inl rfl⟩
    case h_4 => exact ⟨.inl rfl, .inl rfl, .inl rfl⟩
  | st => simp only [effect, memWrite]; split <;> exact ⟨.inl rfl, .inl rfl, .inl rfl⟩
  | _ => exact ⟨.inl rfl, .inl rfl, .inl rfl⟩

theorem csrw_of_outcome_ie_ne {i : Instr} {s : State} (h : (outcome i s).ie ≠ s.ie) :
    s.err = 0x00#8 ∧ ∃ val : Byte, i = .csrw 0x02#8 val ∧ (outcome i s).ie = val.getLsbD 0 := by
  obtain ⟨hx, he⟩ := outcome_eq_effect_of_ne (F := State.ie) (fun _ _ _ _ _ => rfl) h
  obtain ⟨-, -, hie⟩ := effect_npts_m_ie i s
  obtain ⟨val, rfl, hv⟩ := hie.resolve_left (he ▸ h)
  exact ⟨hx.resolve_right (by simp [executesHalted]), val, rfl, he.trans hv⟩

theorem outcome_res_ne {i : Instr} {s : State} (h : (outcome i s).res ≠ s.res) : WritesRes i ∨ i = .clr := by
  by_contra hn
  obtain ⟨hw, hc⟩ := not_or.mp hn
  exact h (outcome_res hw hc s)

theorem outcome_wvalid_ne {i : Instr} {s : State} (h : (outcome i s).wvalid ≠ s.wvalid) :
    (outcome i s).err = 0x00#8 ∧ (outcome i s).wvalid = wvalidAfter i s := by
  rw [outcome_wvalid] at h ⊢
  split at h
  · rename_i he
    exact ⟨he, if_pos he⟩
  · exact absurd rfl h

/-- The fault record is cleared by CLR and otherwise written only when a running block takes a fault
(60_exceptions R184, R188). -/
theorem outcome_record (i : Instr) (s : State) :
    ((outcome i s).err = s.err ∧ (outcome i s).ecmd = s.ecmd ∧ (outcome i s).eidx = s.eidx) ∨
    i = .clr ∨ (s.err = 0x00#8 ∧ (outcome i s).err ≠ 0x00#8) := by
  rcases outcome_cases i s with ⟨-, -, ho⟩ | ⟨c, hi, lo, hr, -, ho⟩ | ⟨-, -, ho⟩ <;> rw [ho]
  · exact .inl ⟨rfl, rfl, rfl⟩
  · exact .inr (.inr ⟨hr, faultCode_ne_zero c⟩)
  · by_cases hc : i = .clr
    · exact .inr (.inl hc)
    · rw [completed, effect_frame hc]
      exact .inl ⟨rfl, rfl, rfl⟩

theorem outcome_pending (i : Instr) (s : State) : (outcome i s).pending = s.pending := by
  by_contra h
  obtain ⟨-, he⟩ := outcome_eq_effect_of_ne (F := State.pending) (fun _ _ _ _ _ => rfl) h
  refine h (he.trans ?_)
  by_cases hc : i = .clr
  · rw [hc]
    rfl
  · rw [effect_frame hc]

/-- Settles O50: each clause is the lemma about its field or byte. -/
theorem commandsWriteOnlyWhatTheTableAllows : Obligations.CommandsWriteOnlyWhatTheTableAllows := by
  intro i s t hwf ht
  rw [exec_eq] at ht
  cases ht
  obtain ⟨hnpts, hm, -⟩ := effect_npts_m_ie i s
  refine ⟨fun a => storesTo_of_read_outcome_ne hwf, outcome_res_ne, fun h => ?_, fun h => ?_, outcome_wvalid_ne,
    csrw_of_outcome_ie_ne, fun h => ?_, fun h => ?_, outcome_pending i s⟩
  · obtain ⟨-, he⟩ := outcome_eq_effect_of_ne (F := State.npts) (fun _ _ _ _ _ => rfl) h
    exact hnpts.resolve_left (he ▸ h)
  · obtain ⟨-, he⟩ := outcome_eq_effect_of_ne (F := State.m) (fun _ _ _ _ _ => rfl) h
    exact hm.resolve_left (he ▸ h)
  · rcases outcome_record i s with ⟨he, -, -⟩ | hc | ⟨hr, -⟩
    · exact absurd he h
    · exact .inl hc
    · exact .inr hr
  · rcases outcome_record i s with ⟨-, hw, hd⟩ | hw
    · exact absurd h (not_or.mpr ⟨not_not.mpr hw, not_not.mpr hd⟩)
    · exact hw

end Sys2Proof.Machine

namespace Sys2Proof.Machine

/-! # The entries not in use (20_memory R54)

Two states that agree in use take the same fault or complete alike, because every engine reads the arrays through sums,
products and searches bounded by NPTS or M. -/

/-! ## Bounded reads -/

theorem pevalLoop_congr {c d : Nat → Byte} (x : Byte) {n k : Nat} (h : ∀ j, k ≤ j → j < k + n → c j = d j)
    (p sum : Byte) : pevalLoop c x n k p sum = pevalLoop d x n k p sum := by
  induction n generalizing k p sum with
  | zero => rfl
  | succ n ih =>
    rw [pevalLoop, pevalLoop, h k le_rfl (by omega)]
    exact ih (fun j hj hjn => h j (by omega) (by omega)) _ _

theorem peval_congr {c d : Nat → Byte} {m : Nat} (hm : 1 ≤ m) (h : ∀ k, k < m → c k = d k) (x : Byte) :
    peval c m x = peval d m x := by
  rw [peval, peval, h 0 hm]
  exact pevalLoop_congr x (fun j _ hj => h j (by omega)) _ _

theorem dot_congr {v v' w w' : Nat → Byte} {n : Nat} (hv : ∀ k, k < n → v k = v' k) (hw : ∀ k, k < n → w k = w' k) :
    dot v w n = dot v' w' n := by
  refine List.foldl_ext _ _ _ fun sum k hk => ?_
  rw [hv k (List.mem_range.mp hk), hw k (List.mem_range.mp hk)]

section
variable {s t : State} {n : Nat} (hx : ∀ k, k < n → t.xs k = s.xs k)
include hx

theorem firstZeroPoint_congr : firstZeroPoint t n = firstZeroPoint s n :=
  List.find?_congr fun k hk => by rw [hx k (List.mem_range.mp hk)]

theorem firstDuplicate_congr : firstDuplicate t n = firstDuplicate s n := by
  rw [firstDuplicate, firstDuplicate, ← List.head?_filterMap, ← List.head?_filterMap]
  refine congrArg List.head? (List.filterMap_congr fun k hk => congrArg _ (List.find?_congr fun l hl => ?_))
  have hk := List.mem_range.mp hk
  have hl := List.mem_range'_1.mp hl
  rw [hx k hk, hx l (by omega)]

end

/-! ## Agreement in use -/

section
variable {s s' : State} (h : SameInUse s s')
include h

theorem SameInUse.npts_eq : s'.npts = s.npts := by rw [h.1]

theorem SameInUse.m_eq : s'.m = s.m := by rw [h.1]

theorem SameInUse.err_eq : s'.err = s.err := by rw [h.1]

theorem SameInUse.res_eq : s'.res = s.res := by rw [h.1]

theorem SameInUse.wvalid_eq : s'.wvalid = s.wvalid := by rw [h.1]

theorem SameInUse.xs_eq {k : Nat} (hk : k < s.npts.toNat) : s'.xs k = s.xs k := (h.2.1 k hk).1

theorem SameInUse.vs_eq {k : Nat} (hk : k < s.npts.toNat) : s'.vs k = s.vs k := (h.2.1 k hk).2.1

theorem SameInUse.lw_eq {k : Nat} (hk : k < s.npts.toNat) : s'.lw k = s.lw k := (h.2.1 k hk).2.2

theorem SameInUse.cs_eq {k : Nat} (hk : k < s.m.toNat) : s'.cs k = s.cs k := h.2.2 k hk

theorem SameInUse.answer (r : Response) : SameInUse (s.answer r) (s'.answer r) := ⟨by rw [h.1]; rfl, h.2⟩

theorem SameInUse.record (c : Byte) (w : Word) (d : BitVec 16) : SameInUse (s.record c w d) (s'.record c w d) :=
  ⟨by rw [h.1]; rfl, h.2⟩

theorem SameInUse.setRes (v : Byte) : SameInUse (s.setRes v) (s'.setRes v) := ⟨by rw [h.1]; rfl, h.2⟩

theorem SameInUse.setWvalid (v : Bool) : SameInUse (s.setWvalid v) (s'.setWvalid v) := ⟨by rw [h.1]; rfl, h.2⟩

/-- Filling an array from equal values up to NPTS keeps the agreement. -/
theorem SameInUse.fillBank (hwf : Memory.wf s.mem) (hwf' : Memory.wf s'.mem) (b : Bank) {f g : Nat → Byte}
    (hfg : ∀ k, k < s.npts.toNat → g k = f k) :
    SameInUse (s.fillBank b f s.npts.toNat) (s'.fillBank b g s'.npts.toNat) := by
  have hn : s.npts.toNat < 256 := s.npts.isLt
  have hm : s.m.toNat < 256 := s.m.isLt
  have hentry (c : Bank) (k : Nat) (hk : k < 256) (he : s'.entry c k = s.entry c k) :
      (s'.fillBank b g s'.npts.toNat).entry c k = (s.fillBank b f s.npts.toNat).entry c k := by
    rw [h.npts_eq, State.entry_fillBank hwf' b c g hn.le hk, State.entry_fillBank hwf b c f hn.le hk, he]
    split
    · rename_i hin
      exact hfg k hin.2
    · rfl
  refine ⟨by rw [h.1]; rfl, fun k (hk : k < s.npts.toNat) => ?_, fun k (hk : k < s.m.toNat) => ?_⟩
  · have hk' : k < 256 := by omega
    exact ⟨hentry .xs k hk' (h.xs_eq hk), hentry .vs k hk' (h.vs_eq hk), hentry .lw k hk' (h.lw_eq hk)⟩
  · exact hentry .cs k (by omega) (h.cs_eq hk)

/-! ## What the engines compute -/

theorem SameInUse.peval_eq (hm : s.m ≠ 0x00#8) (x : Byte) : peval s'.cs s'.m.toNat x = peval s.cs s.m.toNat x := by
  have hpos : 1 ≤ s.m.toNat := Nat.pos_of_ne_zero fun he => hm (BitVec.eq_of_toNat_eq he)
  rw [h.m_eq]
  exact peval_congr hpos (fun _ => h.cs_eq) x

theorem SameInUse.interpolated_eq : s'.interpolated = s.interpolated := by
  rw [State.interpolated, State.interpolated, h.npts_eq]
  exact dot_congr (fun _ => h.vs_eq) (fun _ => h.lw_eq)

theorem SameInUse.weightOf_eq {k : Nat} (hk : k < s.npts.toNat) : s'.weightOf k = s.weightOf k := by
  rw [State.weightOf, State.weightOf, h.npts_eq]
  exact weight_congr (fun _ => h.xs_eq) hk

theorem SameInUse.prepare (hwf : Memory.wf s.mem) (hwf' : Memory.wf s'.mem) : SameInUse s.prepare s'.prepare :=
  (h.fillBank hwf hwf' .lw fun _ => h.weightOf_eq).setWvalid true

theorem SameInUse.firstZeroPoint_eq : firstZeroPoint s' s.npts.toNat = firstZeroPoint s s.npts.toNat :=
  firstZeroPoint_congr fun _ => h.xs_eq

theorem SameInUse.firstDuplicate_eq : firstDuplicate s' s.npts.toNat = firstDuplicate s s.npts.toNat :=
  firstDuplicate_congr fun _ => h.xs_eq

theorem SameInUse.pcheck_eq : pcheck s' = pcheck s := by
  rw [pcheck, pcheck, h.npts_eq, h.m_eq, h.firstZeroPoint_eq, h.firstDuplicate_eq]

/-! ## The engine commands -/

/-- Which fault a command takes depends on no entry out of use. -/
theorem SameInUse.faultOf_eq (i : Instr) : faultOf i s' = faultOf i s := by
  cases i with
  | eval x => simp only [faultOf, h.npts_eq, h.m_eq]
  | evaln => simp only [faultOf, h.firstZeroPoint_eq, h.npts_eq, h.m_eq]
  | lprep | lagr => exact h.pcheck_eq
  | ldot => simp only [faultOf, h.wvalid_eq]
  | _ => rfl

end

/-- EVAL and EVALN complete only with a coefficient in use (43_polyeval R123, R124). -/
theorem m_ne_zero_of_faultOf_eq_none {i : Instr} {s : State} (hi : i = .evaln ∨ ∃ x, i = .eval x)
    (hf : faultOf i s = none) : s.m ≠ 0x00#8 := by
  intro hm
  rcases hi with rfl | ⟨x, rfl⟩ <;> simp [faultOf, hm] at hf

theorem SameInUse.effect_engine {i : Instr} (hi : EngineCommand i) {s s' : State} (h : SameInUse s s')
    (hwf : Memory.wf s.mem) (hwf' : Memory.wf s'.mem) (hf : faultOf i s = none) :
    SameInUse (effect i s) (effect i s') := by
  cases i with
  | ldseq => exact (h.fillBank hwf hwf' .xs fun _ _ => rfl).setWvalid false
  | eval x =>
    have hp := h.peval_eq (m_ne_zero_of_faultOf_eq_none (.inr ⟨x, rfl⟩) hf) x
    simpa only [effect, hp] using h.setRes _
  | evaln =>
    have hm := m_ne_zero_of_faultOf_eq_none (.inl rfl) hf
    exact h.fillBank hwf hwf' .vs fun k hk => by rw [h.xs_eq hk, h.peval_eq hm]
  | lprep => exact h.prepare hwf hwf'
  | ldot => simpa only [effect, h.interpolated_eq] using h.setRes _
  | lagr =>
    have hp := h.prepare hwf hwf'
    simpa only [effect, hp.interpolated_eq] using hp.setRes _
  | _ => cases hi

theorem SameInUse.outcome_engine {i : Instr} (hi : EngineCommand i) {s s' : State} (h : SameInUse s s')
    (hwf : Memory.wf s.mem) (hwf' : Memory.wf s'.mem) : SameInUse (outcome i s) (outcome i s') := by
  rcases outcome_cases i s with ⟨hh, hx, ho⟩ | ⟨c, hi, lo, hr, hf, ho⟩ | ⟨hx, hf, ho⟩ <;> rw [ho]
  · rw [outcome_refused (h.err_eq ▸ hh) hx, h.err_eq]
    exact h.answer _
  · rw [outcome_fault (h.err_eq.trans hr) ((h.faultOf_eq i).trans hf)]
    exact (h.record _ _ _).answer _
  · rw [outcome_completes (h.err_eq ▸ hx) ((h.faultOf_eq i).trans hf)]
    have he := h.effect_engine hi hwf hwf' hf
    have hd : responseData i s' = responseData i s := by
      cases i with
      | eval | ldot | lagr => exact congrArg zext32 he.res_eq
      | ldseq | evaln | lprep => rfl
      | _ => cases hi
    rw [completed, completed, hd, he.err_eq]
    exact he.answer _

/-- An engine stores to no entry from NPTS on and to none of CS (20_memory R53, R54). -/
theorem not_storesTo_of_not_in_use {i : Instr} (hi : EngineCommand i) (s : State) {b : Bank} {k : Nat} (hk : k < 256)
    (hb : b = .cs ∨ s.npts.toNat ≤ k) : ¬ StoresTo i s (bankBase b + k) := by
  have hn : s.npts.toNat < 256 := s.npts.isLt
  cases i with
  | ldseq | evaln | lprep | lagr => cases b <;> simp [StoresTo, bankBase] at hb ⊢ <;> omega
  | eval | ldot => exact id
  | _ => cases hi

theorem outcome_entry_of_not_in_use {i : Instr} (hi : EngineCommand i) {s : State} (hwf : Memory.wf s.mem) {b : Bank}
    {k : Nat} (hk : k < 256) (hb : b = .cs ∨ s.npts.toNat ≤ k) : (outcome i s).entry b k = s.entry b k := by
  by_contra hne
  exact not_storesTo_of_not_in_use hi s hk hb (storesTo_of_read_outcome_ne hwf hne)

/-- Settles O51: the outcomes agree in use, and no engine stores to an entry out of use. -/
theorem enginesIgnoreEntriesNotInUse : Obligations.EnginesIgnoreEntriesNotInUse := fun i s s' hi hwf hwf' h =>
  ⟨outcome i s, outcome i s', exec_eq i s, exec_eq i s', h.outcome_engine hi hwf hwf',
    fun _ _ _ hn hk => outcome_entry_of_not_in_use hi hwf hk (.inr hn),
    fun _ hk => outcome_entry_of_not_in_use (b := .cs) hi hwf hk (.inl rfl)⟩

end Sys2Proof.Machine

namespace Sys2Proof

open Machine

/-! # The encoding (30_encoding R60 to R74)

A word is the bitwise or of its fields. A row of the opcode table and a command of that row's format both fix the
opcode and the must-be-zero field, so a row matches a word exactly when the row's command encodes to it. -/

/-! ## Fields and masks -/

/-- The bits of the field of `len` bits that begins at bit `start` (30_encoding R61 to R66). -/
def fieldMask (start len : Nat) : Word := (BitVec.allOnes len).setWidth 32 <<< start

/-- A field put back in its place is the word under the field's mask. -/
theorem extractLsb'_in_place (w : Word) {start len : Nat} (h : start + len ≤ 32) :
    (w.extractLsb' start len).setWidth 32 <<< start = w &&& fieldMask start len := by
  ext i hi
  simp only [fieldMask, BitVec.getElem_shiftLeft, BitVec.getElem_and]
  grind

theorem extractLsb'_eq_iff {w : Word} {start len : Nat} (h : start + len ≤ 32) {v : BitVec len} :
    w.extractLsb' start len = v ↔ w &&& fieldMask start len = v.setWidth 32 <<< start := by
  constructor
  · rintro rfl
    exact (extractLsb'_in_place w h).symm
  · intro hw
    ext i hi
    have hbit := congrArg (·.getLsbD (start + i)) hw
    simpa [fieldMask, hi, show start + i < 32 by omega, BitVec.getLsbD_eq_getElem] using hbit

theorem extractLsb'_eq_zero_iff {w : Word} {start len : Nat} (h : start + len ≤ 32) :
    w.extractLsb' start len = 0#len ↔ w &&& fieldMask start len = 0#32 := by
  simp [extractLsb'_eq_iff h]

theorem wordOp_in_place (w : Word) : (wordOp w).setWidth 32 <<< 24 = w &&& fieldMask 24 8 :=
  extractLsb'_in_place w (by decide)

theorem wordMid_in_place (w : Word) : (wordMid w).setWidth 32 <<< 8 = w &&& fieldMask 8 8 :=
  extractLsb'_in_place w (by decide)

theorem wordAddr_in_place (w : Word) : (wordAddr w).setWidth 32 <<< 8 = w &&& fieldMask 8 10 :=
  extractLsb'_in_place w (by decide)

theorem wordLow_in_place (w : Word) : (wordLow w).setWidth 32 = w &&& fieldMask 0 8 :=
  (BitVec.shiftLeft_zero _).symm.trans (extractLsb'_in_place w (by decide))

/-- A word is its own part under a mask exactly when the field the mask leaves out is zero. -/
theorem and_eq_self_iff {w m : Word} {start len : Nat} (h : start + len ≤ 32) (hm : m = ~~~fieldMask start len) :
    w &&& m = w ↔ w.extractLsb' start len = 0#len := by
  rw [extractLsb'_eq_zero_iff h, hm]
  constructor <;> intro hw
  · rw [← hw, BitVec.and_assoc, BitVec.not_and_self]
    exact BitVec.and_zero
  · rw [← BitVec.zero_or (x := w &&& _), ← hw, ← BitVec.and_or_distrib_left, BitVec.or_not_self, BitVec.and_allOnes]

/-! ## Each format, by the fields of its word (30_encoding R62 to R66) -/

theorem formatN_eq_iff {op : Byte} {w : Word} : formatN op = w ↔ wordOp w = op ∧ w.extractLsb' 0 24 = 0#24 := by
  have hself (w : Word) : formatN (wordOp w) = w ↔ w.extractLsb' 0 24 = 0#24 := by
    rw [formatN, wordOp_in_place]
    exact and_eq_self_iff (by decide) rfl
  constructor
  · rintro rfl
    simp [← hself]
  · rintro ⟨rfl, hz⟩
    exact (hself w).mpr hz

theorem formatA_eq_iff {op a : Byte} {w : Word} :
    formatA op a = w ↔ wordOp w = op ∧ w.extractLsb' 8 16 = 0#16 ∧ wordLow w = a := by
  have hself (w : Word) : formatA (wordOp w) (wordLow w) = w ↔ w.extractLsb' 8 16 = 0#16 := by
    rw [formatA, wordOp_in_place, wordLow_in_place, ← BitVec.and_or_distrib_left]
    exact and_eq_self_iff (by decide) rfl
  constructor
  · rintro rfl
    simp [← hself]
  · rintro ⟨rfl, hz, rfl⟩
    exact (hself w).mpr hz

theorem formatAB_eq_iff {op a b : Byte} {w : Word} :
    formatAB op a b = w ↔ wordOp w = op ∧ w.extractLsb' 16 8 = 0#8 ∧ wordMid w = a ∧ wordLow w = b := by
  have hself (w : Word) : formatAB (wordOp w) (wordMid w) (wordLow w) = w ↔ w.extractLsb' 16 8 = 0#8 := by
    rw [formatAB, wordOp_in_place, wordMid_in_place, wordLow_in_place, ← BitVec.and_or_distrib_left,
      ← BitVec.and_or_distrib_left]
    exact and_eq_self_iff (by decide) rfl
  constructor
  · rintro rfl
    simp [← hself]
  · rintro ⟨rfl, hz, rfl, rfl⟩
    exact (hself w).mpr hz

theorem formatC_eq_iff {op csr val : Byte} {w : Word} :
    formatC op csr val = w ↔ wordOp w = op ∧ w.extractLsb' 16 8 = 0#8 ∧ wordMid w = csr ∧ wordLow w = val :=
  formatAB_eq_iff

theorem formatM_eq_iff {op data : Byte} {addr : BitVec 10} {w : Word} :
    formatM op addr data = w ↔ wordOp w = op ∧ w.extractLsb' 18 6 = 0#6 ∧ wordAddr w = addr ∧ wordLow w = data := by
  have hself (w : Word) : formatM (wordOp w) (wordAddr w) (wordLow w) = w ↔ w.extractLsb' 18 6 = 0#6 := by
    rw [formatM, wordOp_in_place, wordAddr_in_place, wordLow_in_place, ← BitVec.and_or_distrib_left,
      ← BitVec.and_or_distrib_left]
    exact and_eq_self_iff (by decide) rfl
  constructor
  · rintro rfl
    simp [← hself]
  · rintro ⟨rfl, hz, rfl, rfl⟩
    exact (hself w).mpr hz

/-! ## Each mask of the opcode table, by the fields it covers (30_encoding R67) -/

theorem and_opcodeMask_eq_iff {w : Word} {op : Byte} : w &&& fieldMask 24 8 = formatN op ↔ wordOp w = op :=
  (extractLsb'_eq_iff (by decide)).symm

/-- A mask that covers the opcode and one more field asks for the opcode and for a zero in that field. -/
theorem and_or_fieldMask_eq_iff {w m : Word} {op : Byte} {start len : Nat}
    (hm : m &&& fieldMask 24 8 = fieldMask 24 8) (h : start + len ≤ 24) :
    w &&& (m ||| fieldMask start len) = formatN op ↔ w &&& m = formatN op ∧ w.extractLsb' start len = 0#len := by
  have hop : formatN op &&& m = formatN op := by
    rw [← and_opcodeMask_eq_iff.mpr (wordOp_formatN op), BitVec.and_assoc, BitVec.and_comm _ m, hm]
  have hlow : formatN op &&& fieldMask start len = 0#32 := by
    ext i hi
    simp only [formatN, fieldMask, BitVec.getElem_and, BitVec.getElem_shiftLeft]
    grind
  have hp : formatN op &&& (m ||| fieldMask start len) = formatN op := by
    rw [BitVec.and_or_distrib_left, hop, hlow, BitVec.or_zero]
  rw [extractLsb'_eq_zero_iff (by omega)]
  constructor
  · intro hw
    rw [← hop, ← hlow, ← hw]
    constructor <;> ext i <;> simp only [BitVec.getElem_and, BitVec.getElem_or] <;> grind
  · rintro ⟨hwm, hz⟩
    rw [BitVec.and_or_distrib_left, hwm, hz, BitVec.or_zero]

theorem csrAssigned_wordMid_iff (w : Word) : CsrAssigned (wordMid w) ↔ w.extractLsb' 11 5 = 0#5 := by
  simp [CsrAssigned, wordMid, ← BitVec.toNat_inj, BitVec.extractLsb'_toNat, Nat.shiftRight_eq_div_pow]
  omega

theorem maskN_iff {w : Word} {op : Byte} : w &&& 0xFFFFFFFF#32 = formatN op ↔ formatN op = w := by
  change w &&& (fieldMask 24 8 ||| fieldMask 0 24) = _ ↔ _
  rw [and_or_fieldMask_eq_iff rfl (by decide), and_opcodeMask_eq_iff, formatN_eq_iff]

theorem maskA_iff {w : Word} {op : Byte} : w &&& 0xFFFFFF00#32 = formatN op ↔ formatA op (wordLow w) = w := by
  change w &&& (fieldMask 24 8 ||| fieldMask 8 16) = _ ↔ _
  rw [and_or_fieldMask_eq_iff rfl (by decide), and_opcodeMask_eq_iff, formatA_eq_iff]
  simp

theorem maskAB_iff {w : Word} {op : Byte} :
    w &&& 0xFFFF0000#32 = formatN op ↔ formatAB op (wordMid w) (wordLow w) = w := by
  change w &&& (fieldMask 24 8 ||| fieldMask 16 8) = _ ↔ _
  rw [and_or_fieldMask_eq_iff rfl (by decide), and_opcodeMask_eq_iff, formatAB_eq_iff]
  simp

theorem maskM_iff {w : Word} {op : Byte} :
    w &&& 0xFFFC0000#32 = formatN op ↔ formatM op (wordAddr w) (wordLow w) = w := by
  change w &&& (fieldMask 24 8 ||| fieldMask 18 6) = _ ↔ _
  rw [and_or_fieldMask_eq_iff rfl (by decide), and_opcodeMask_eq_iff, formatM_eq_iff]
  simp

theorem maskM_zero_iff {w : Word} {op : Byte} :
    w &&& 0xFFFC00FF#32 = formatN op ↔ formatM op (wordAddr w) 0x00#8 = w := by
  change w &&& (fieldMask 24 8 ||| fieldMask 18 6 ||| fieldMask 0 8) = _ ↔ _
  rw [and_or_fieldMask_eq_iff rfl (by decide), and_or_fieldMask_eq_iff rfl (by decide), and_opcodeMask_eq_iff,
    formatM_eq_iff]
  simp [wordLow, and_assoc]

theorem maskC_iff {w : Word} {op : Byte} :
    w &&& 0xFFFFF800#32 = formatN op ↔ formatC op (wordMid w) (wordLow w) = w ∧ CsrAssigned (wordMid w) := by
  change w &&& (fieldMask 24 8 ||| fieldMask 16 8 ||| fieldMask 11 5) = _ ↔ _
  rw [and_or_fieldMask_eq_iff rfl (by decide), and_or_fieldMask_eq_iff rfl (by decide), and_opcodeMask_eq_iff,
    formatC_eq_iff, csrAssigned_wordMid_iff]
  simp

theorem maskC_zero_iff {w : Word} {op : Byte} :
    w &&& 0xFFFFF8FF#32 = formatN op ↔ formatC op (wordMid w) 0x00#8 = w ∧ CsrAssigned (wordMid w) := by
  change w &&& (fieldMask 24 8 ||| fieldMask 16 8 ||| fieldMask 0 8 ||| fieldMask 11 5) = _ ↔ _
  rw [and_or_fieldMask_eq_iff rfl (by decide), and_or_fieldMask_eq_iff rfl (by decide),
    and_or_fieldMask_eq_iff rfl (by decide), and_opcodeMask_eq_iff, formatC_eq_iff, csrAssigned_wordMid_iff]
  simp [wordLow, and_assoc]

/-! ## The rows (30_encoding R67, R69) -/

/-- A row matches a word exactly when the command it reads from the word encodes to the word. -/
theorem row_matches_iff {r : OpcodeRow} (hr : r ∈ opcodeRows) (w : Word) :
    w &&& r.mask = r.pattern ↔ encode (r.build w) = w ∧ WellFormed (r.build w) = true := by
  simp only [opcodeRows, controlRows, fieldRows, List.cons_append, List.nil_append, List.mem_cons,
    List.not_mem_nil, or_false] at hr
  rcases hr with rfl | rfl | rfl | rfl | rfl | rfl | rfl | rfl | rfl | rfl | rfl | rfl | rfl | rfl | rfl | rfl
  · exact (maskN_iff (op := 0x00#8)).trans (and_iff_left rfl).symm
  · exact (maskN_iff (op := 0x01#8)).trans (and_iff_left rfl).symm
  · exact (maskC_zero_iff (op := 0x10#8)).trans (and_congr_right' decide_eq_true_iff.symm)
  · exact (maskC_iff (op := 0x11#8)).trans (and_congr_right' decide_eq_true_iff.symm)
  · exact (maskM_zero_iff (op := 0x20#8)).trans (and_iff_left rfl).symm
  · exact (maskM_iff (op := 0x21#8)).trans (and_iff_left rfl).symm
  · exact (maskN_iff (op := 0x22#8)).trans (and_iff_left rfl).symm
  · exact (maskAB_iff (op := 0x30#8)).trans (and_iff_left rfl).symm
  · exact (maskAB_iff (op := 0x31#8)).trans (and_iff_left rfl).symm
  · exact (maskAB_iff (op := 0x32#8)).trans (and_iff_left rfl).symm
  · exact (maskA_iff (op := 0x33#8)).trans (and_iff_left rfl).symm
  · exact (maskA_iff (op := 0x40#8)).trans (and_iff_left rfl).symm
  · exact (maskN_iff (op := 0x41#8)).trans (and_iff_left rfl).symm
  · exact (maskN_iff (op := 0x50#8)).trans (and_iff_left rfl).symm
  · exact (maskN_iff (op := 0x51#8)).trans (and_iff_left rfl).symm
  · exact (maskN_iff (op := 0x52#8)).trans (and_iff_left rfl).symm

/-- Every command is what some row reads from the command's word. -/
theorem exists_row_build_encode (i : Instr) : ∃ r ∈ opcodeRows, r.build (encode i) = i := by
  cases i <;> simp [opcodeRows, controlRows, fieldRows, encode]

theorem wordOp_and (w m : Word) : wordOp (w &&& m) = wordOp w &&& wordOp m := BitVec.extractLsb'_and ..

theorem wordOp_mask : ∀ r ∈ opcodeRows, wordOp r.mask = BitVec.allOnes 8 := by
  simp [opcodeRows, controlRows, fieldRows, wordOp]

theorem wordOp_eq_of_matches {r : OpcodeRow} (hr : r ∈ opcodeRows) {w : Word} (h : w &&& r.mask = r.pattern) :
    wordOp w = wordOp r.pattern := by
  rw [← h, wordOp_and, wordOp_mask r hr, BitVec.and_allOnes]

theorem opcodes_nodup : (opcodeRows.map fun r => wordOp r.pattern).Nodup := by decide

/-- Two rows that match one word are one row: they have one opcode. -/
theorem row_unique {w : Word} {r q : OpcodeRow} (hr : r ∈ opcodeRows) (hq : q ∈ opcodeRows)
    (hwr : w &&& r.mask = r.pattern) (hwq : w &&& q.mask = q.pattern) : r = q :=
  List.inj_on_of_nodup_map opcodes_nodup hr hq
    ((wordOp_eq_of_matches hr hwr).symm.trans (wordOp_eq_of_matches hq hwq))

theorem decode_eq_ok_iff {w : Word} {i : Instr} :
    decode w = .ok i ↔ ∃ r ∈ opcodeRows, w &&& r.mask = r.pattern ∧ i = r.build w := by
  have hsome {q : OpcodeRow} (hq : opcodeRows.find? (rowAccepts · w) = some q) :
      q ∈ opcodeRows ∧ w &&& q.mask = q.pattern :=
    ⟨List.mem_of_find?_eq_some hq, beq_iff_eq.mp (List.find?_some hq :)⟩
  unfold decode
  cases hf : opcodeRows.find? (rowAccepts · w) with
  | some q =>
    obtain ⟨hq, hwq⟩ := hsome hf
    constructor
    · rintro ⟨⟩
      exact ⟨q, hq, hwq, rfl⟩
    · rintro ⟨r, hr, hwr, rfl⟩
      rw [row_unique hr hq hwr hwq]
  | none =>
    have hnone := List.find?_eq_none.mp hf
    constructor
    · rintro ⟨⟩
    · rintro ⟨r, hr, hwr, -⟩
      exact absurd (beq_iff_eq.mpr hwr) (hnone r hr)

/-- A word decodes to a command exactly when it is the word of that command and the command is well-formed. -/
theorem decode_eq_ok_iff_encode_eq {w : Word} {i : Instr} :
    decode w = .ok i ↔ encode i = w ∧ WellFormed i = true := by
  rw [decode_eq_ok_iff]
  constructor
  · rintro ⟨r, hr, hw, rfl⟩
    exact (row_matches_iff hr w).mp hw
  · rintro ⟨rfl, hi⟩
    obtain ⟨r, hr, hb⟩ := exists_row_build_encode i
    exact ⟨r, hr, (row_matches_iff hr _).mpr (by rw [hb]; exact ⟨rfl, hi⟩), hb.symm⟩

/-- Settles O4: `encode i` is matched by the row that reads `i` from it. -/
theorem decodeOfEncodeIsTheCommand : Obligations.DecodeOfEncodeIsTheCommand := fun _ hi =>
  decode_eq_ok_iff_encode_eq.mpr ⟨rfl, hi⟩

/-- Settles O3: no two rows share an opcode, and every mask covers the opcode. -/
theorem decodeReadsTheOneMatchingRow : Obligations.DecodeReadsTheOneMatchingRow :=
  ⟨fun _ _ => decode_eq_ok_iff, fun _ _ _ => row_unique, rfl⟩

/-- Settles O5: the row that matches `w` reads a command whose word is `w`. -/
theorem encodeOfDecodeIsTheWord : Obligations.EncodeOfDecodeIsTheWord := fun _ _ => decode_eq_ok_iff_encode_eq.mp

/-! ## The legal words (30_encoding R70) -/

theorem legalWord_encode {i : Instr} (hi : WellFormed i = true) : LegalWord (encode i) := by
  have hop : (encode i).extractLsb' 24 8 = opcodeOf i := wordOp_encode i
  cases i with
  | nop | clr | ldseq | evaln | lprep | ldot | lagr =>
    obtain ⟨-, hz⟩ := formatN_eq_iff.mp rfl
    refine .inl ⟨?_, hz⟩
    simp [hop, opcodeOf]
  | gfinv | eval =>
    obtain ⟨-, hz, -⟩ := formatA_eq_iff.mp rfl
    refine .inr (.inl ⟨?_, hz⟩)
    simp [hop, opcodeOf]
  | gfadd | gfmul | gfdiv =>
    obtain ⟨-, hz, -⟩ := formatAB_eq_iff.mp rfl
    refine .inr (.inr (.inl ⟨?_, hz⟩))
    simp [hop, opcodeOf]
  | st =>
    obtain ⟨-, hz, -⟩ := formatM_eq_iff.mp rfl
    exact .inr (.inr (.inr (.inl ⟨hop, hz⟩)))
  | ld =>
    obtain ⟨-, hz, -, hdata⟩ := formatM_eq_iff.mp rfl
    exact .inr (.inr (.inr (.inr (.inl ⟨hop, hz, hdata⟩))))
  | csrw =>
    obtain ⟨-, hz, hmid, -⟩ := formatC_eq_iff.mp rfl
    have hcsr := (congrArg BitVec.toNat hmid).trans_lt (of_decide_eq_true hi)
    exact .inr (.inr (.inr (.inr (.inr (.inl ⟨hop, hz, hcsr⟩)))))
  | csrr =>
    obtain ⟨-, hz, hmid, hval⟩ := formatC_eq_iff.mp rfl
    have hcsr := (congrArg BitVec.toNat hmid).trans_lt (of_decide_eq_true hi)
    exact .inr (.inr (.inr (.inr (.inr (.inr ⟨hop, hz, hcsr, hval⟩)))))

/-- A legal word is the word of the command its opcode names, with the operands its fields hold. -/
theorem exists_encode_of_legalWord {w : Word} (h : LegalWord w) : ∃ i, encode i = w ∧ WellFormed i = true := by
  rcases h with ⟨hop, hz⟩ | ⟨hop, hz⟩ | ⟨hop, hz⟩ | ⟨hop, hz⟩ | ⟨hop, hz, hdata⟩ | ⟨hop, hz, hcsr⟩ |
    ⟨hop, hz, hcsr, hval⟩
  · rcases hop with hop | hop | hop | hop | hop | hop | hop
    · exact ⟨.nop, formatN_eq_iff.mpr ⟨hop, hz⟩, rfl⟩
    · exact ⟨.clr, formatN_eq_iff.mpr ⟨hop, hz⟩, rfl⟩
    · exact ⟨.ldseq, formatN_eq_iff.mpr ⟨hop, hz⟩, rfl⟩
    · exact ⟨.evaln, formatN_eq_iff.mpr ⟨hop, hz⟩, rfl⟩
    · exact ⟨.lprep, formatN_eq_iff.mpr ⟨hop, hz⟩, rfl⟩
    · exact ⟨.ldot, formatN_eq_iff.mpr ⟨hop, hz⟩, rfl⟩
    · exact ⟨.lagr, formatN_eq_iff.mpr ⟨hop, hz⟩, rfl⟩
  · rcases hop with hop | hop
    · exact ⟨.gfinv (wordLow w), formatA_eq_iff.mpr ⟨hop, hz, rfl⟩, rfl⟩
    · exact ⟨.eval (wordLow w), formatA_eq_iff.mpr ⟨hop, hz, rfl⟩, rfl⟩
  · rcases hop with hop | hop | hop
    · exact ⟨.gfadd (wordMid w) (wordLow w), formatAB_eq_iff.mpr ⟨hop, hz, rfl, rfl⟩, rfl⟩
    · exact ⟨.gfmul (wordMid w) (wordLow w), formatAB_eq_iff.mpr ⟨hop, hz, rfl, rfl⟩, rfl⟩
    · exact ⟨.gfdiv (wordMid w) (wordLow w), formatAB_eq_iff.mpr ⟨hop, hz, rfl, rfl⟩, rfl⟩
  · exact ⟨.st (wordAddr w) (wordLow w), formatM_eq_iff.mpr ⟨hop, hz, rfl, rfl⟩, rfl⟩
  · exact ⟨.ld (wordAddr w), formatM_eq_iff.mpr ⟨hop, hz, rfl, hdata⟩, rfl⟩
  · exact ⟨.csrw (wordMid w) (wordLow w), formatC_eq_iff.mpr ⟨hop, hz, rfl, rfl⟩, decide_eq_true hcsr⟩
  · exact ⟨.csrr (wordMid w), formatC_eq_iff.mpr ⟨hop, hz, rfl, hval⟩, decide_eq_true hcsr⟩

theorem exists_decode_iff_legalWord (w : Word) : (∃ i, decode w = .ok i) ↔ LegalWord w := by
  simp only [decode_eq_ok_iff_encode_eq]
  constructor
  · rintro ⟨i, rfl, hi⟩
    exact legalWord_encode hi
  · exact exists_encode_of_legalWord

/-- A step on a word that decodes to no command faults while running and is refused while halted. -/
theorem step_of_decode_error {s : State} {w : Word} {rest : List HostMove} {e : Illegal}
    (hs : s.pending = .command w :: rest) (hd : decode w = .error e) :
    step s = if s.err = 0x00#8 then .next ((s.withPending rest).faulted 0x01#8 w 0x0000#16)
      else .next (s.withPending rest).refusedCommand := by
  simp only [step, hs, execWord, hd]
  exact execIllegal_eq w _

/-- Settles O6: the legal words are the words of the well-formed commands. -/
theorem illegalWordsAreExactlyThoseOfTheRule : Obligations.IllegalWordsAreExactlyThoseOfTheRule := by
  refine ⟨exists_decode_iff_legalWord, fun s w rest hs hw => ?_⟩
  cases hd : decode w with
  | ok i => exact absurd ((exists_decode_iff_legalWord w).mp ⟨i, hd⟩) hw
  | error e =>
    rw [step_of_decode_error hs hd]
    exact ⟨fun hr => if_pos hr, fun hh => if_neg hh⟩

/-! ## Words and pseudo-instructions of the spec -/

theorem decode_ne_ok_of_error {w : Word} {e : Illegal} (h : decode w = .error e) (i : Instr) : decode w ≠ .ok i := by
  simp [h]

/-- Settles O2: the decoder evaluates each of the fifteen words. -/
theorem specWordsDecodeToTheirCommands : Obligations.SpecWordsDecodeToTheirCommands :=
  ⟨rfl, rfl, rfl, rfl, rfl, rfl, rfl, rfl, rfl, rfl, rfl, decode_ne_ok_of_error (e := .unassignedOpcode) rfl,
    decode_ne_ok_of_error (e := .nonzeroReservedBits) rfl, decode_ne_ok_of_error (e := .unassignedCsr) rfl,
    decode_ne_ok_of_error (e := .unassignedOpcode) rfl⟩

theorem toNat_arrayAddress (bank : BitVec 2) (i : Byte) :
    (arrayAddress bank i).toNat = 0x100 * bank.toNat + i.toNat := by
  rw [arrayAddress, BitVec.toNat_append, ← Nat.shiftLeft_add_eq_or_of_lt i.isLt, Nat.shiftLeft_eq, Nat.mul_comm]

/-- Settles O7: the sum in each address is `toNat_arrayAddress`; the other clauses evaluate. -/
theorem pseudoInstructionsExpandToOneCommand : Obligations.PseudoInstructionsExpandToOneCommand :=
  ⟨fun _ => rfl, fun _ => rfl,
    fun i _ => ⟨_, toNat_arrayAddress 0#2 i, rfl⟩, fun i _ => ⟨_, toNat_arrayAddress 1#2 i, rfl⟩,
    fun i _ => ⟨_, toNat_arrayAddress 2#2 i, rfl⟩, fun i => ⟨_, toNat_arrayAddress 0#2 i, rfl⟩,
    fun i => ⟨_, toNat_arrayAddress 1#2 i, rfl⟩, fun i => ⟨_, toNat_arrayAddress 2#2 i, rfl⟩,
    fun i => ⟨_, toNat_arrayAddress 3#2 i, rfl⟩, rfl, rfl, rfl, rfl, rfl, rfl, rfl, rfl, rfl, rfl⟩

end Sys2Proof

namespace Sys2Proof.Machine

/-! # The execution frame (40_control R80, R87)

The response of an outcome is read off its shape: the table's data for a completion, 0 for a fault and a refusal. A
step is the outcome of the decoded command, or that of the illegal word. -/

/-! ## The response of a command -/

theorem memRead_eq (addr : BitVec 10) (s : State) : memRead addr s = Memory.read s.mem addr.toNat := by
  rw [toNat_eq_bankBase_add_index]
  rfl

theorem responseData_eq_dataAfter (i : Instr) (s : State) : responseData i s = dataAfter i s (completed i s) := by
  cases i with
  | ld addr => exact congrArg zext32 (memRead_eq addr s)
  | _ => rfl

theorem dataAfter_withPending (i : Instr) (s t : State) (moves : List HostMove) :
    dataAfter i (s.withPending moves) t = dataAfter i s t := by
  cases i <;> rfl

/-- Every outcome gives one response: ERR after the command, and the table's data if the command completes, else 0. -/
theorem outcome_responses (i : Instr) (s : State) :
    ∃ d, (outcome i s).responses = s.responses ++ [⟨(outcome i s).err, d⟩] ∧
      ((outcome i s).err = 0x00#8 ∨ ExecutesHalted i → d = dataAfter i s (outcome i s)) ∧
      ((outcome i s).err ≠ 0x00#8 → ¬ ExecutesHalted i → d = 0x00000000#32) := by
  rw [← executesHalted_iff]
  rcases outcome_cases i s with ⟨hh, hi, ho⟩ | ⟨c, hi, lo, -, hf, ho⟩ | ⟨hx, -, ho⟩ <;> rw [ho]
  · exact ⟨0x00000000#32, rfl, fun h => by simp [hh, hi] at h, fun _ _ => rfl⟩
  · refine ⟨0x00000000#32, rfl, fun h => ?_, fun _ _ => rfl⟩
    rcases h with h | h
    · exact absurd h (faultCode_ne_zero c)
    · simp [faultOf_of_executesHalted h] at hf
  · refine ⟨responseData i s, ?_, fun _ => responseData_eq_dataAfter i s, fun he hn => ?_⟩
    · rw [completed_responses, effect_responses, completed_err]
    · rw [completed_err, effect_eq_self_of_err hx he] at he
      exact absurd (hx.resolve_left he) hn

/-- A command that executes while halted takes no fault, and only CLR changes ERR. -/
theorem outcome_err_of_executesHalted {i : Instr} (h : executesHalted i = true) (s : State) :
    (outcome i s).err = if i = .clr then 0x00#8 else s.err := by
  rw [outcome_completes (.inr h) (faultOf_of_executesHalted h s), completed_err, effect_err]

/-- Settles O54: `outcome_responses` gives the data, `outcome_err_of_executesHalted` the error field. -/
theorem responsesFollowTheirTable : Obligations.ResponsesFollowTheirTable := by
  intro i s _
  obtain ⟨d, hd, htable, hzero⟩ := outcome_responses i s
  refine ⟨outcome i s, (outcome i s).err, d, exec_eq i s, hd, rfl, fun he => htable (.inl he),
    fun _ hi => htable (.inr hi), fun he hn => hzero he fun hi => ?_, fun _ hi hc => ?_, ?_⟩
  · rw [outcome_err_of_executesHalted ((executesHalted_iff i).mpr hi)] at he
    exact hn ⟨fun hr => he (by simp [hr]), hi⟩
  · rw [outcome_err_of_executesHalted ((executesHalted_iff i).mpr hi), if_neg hc]
  · rintro rfl
    exact (outcome_err_of_executesHalted rfl s).trans (if_pos rfl)

/-! ## The step -/

theorem step_of_decode_ok {s : State} {w : Word} {rest : List HostMove} {i : Instr}
    (hs : s.pending = .command w :: rest) (hd : decode w = .ok i) : step s = exec i (s.withPending rest) := by
  simp only [step, hs, execWord, hd]

/-- Settles O8: the four bytes of the word give the word back, and the step decodes it. -/
theorem stepRunsTheDecodedCommand : Obligations.StepRunsTheDecodedCommand := by
  intro s w rest i hs hd
  have hbytes := decodeBytes_wordBytes w []
  rw [List.append_nil, hd] at hbytes
  exact ⟨hbytes, step_of_decode_ok hs hd⟩

/-- Settles O9: a word that decodes has the outcome of its command, any other the outcome of an illegal word. -/
theorem everyWordHasOneOutcomeAndOneResponse : Obligations.EveryWordHasOneOutcomeAndOneResponse := by
  intro s w rest hs
  cases hd : decode w with
  | ok i =>
    have hstep := step_of_decode_ok hs hd
    obtain ⟨d, hr, htable, hzero⟩ := outcome_responses i (s.withPending rest)
    rw [dataAfter_withPending] at htable
    refine ⟨⟨outcome i (s.withPending rest), _, hstep.trans (exec_eq i _), outcome_pending i _, hr, rfl, ?_,
      fun he hn => hzero he (hn i rfl)⟩, ?_, fun hh hn => ?_, fun _ hn => absurd rfl (hn i)⟩
    · rintro _ ⟨⟩
      exact htable
    · rintro _ ⟨⟩ _
      exact hstep
    · have hi : executesHalted i = false := by
        rw [← Bool.not_eq_true, executesHalted_iff]
        exact hn i rfl
      rw [hstep, exec_eq, outcome_refused (s := s.withPending rest) hh hi]
      rfl
  | error e =>
    have hstep := step_of_decode_error hs hd
    refine ⟨?_, fun _ => nofun, fun hh _ => hstep.trans (if_neg hh), fun hr _ => hstep.trans (if_pos hr)⟩
    split at hstep <;> exact ⟨_, _, hstep, rfl, rfl, rfl, fun _ => nofun, fun _ _ => rfl⟩

/-! # The control commands (40_control R81 to R84) -/

/-- Settles O14: NOP is its response. -/
theorem nopReportsErrAndWritesNothing : Obligations.NopReportsErrAndWritesNothing := ⟨rfl, fun _ => rfl⟩

theorem exec_clr (s : State) : exec .clr s = .next (s.wipe.answer ⟨0x00#8, 0x00000000#32⟩) := by
  rw [exec_eq, outcome_clr]

/-- Settles O15: the wiped state is the reset state but for IE and the ports, so a second wipe finds it so. -/
theorem clrWipesAllStateButIe : Obligations.ClrWipesAllStateButIe := by
  refine ⟨rfl, fun s => ⟨_, exec_clr s, rfl, fun _ => Memory.read_nil _, ?_, ?_, ?_, _, exec_clr _, rfl⟩⟩
  · rw [State.wipe_eq]
    rfl
  · simp [State.irq]
  · rintro rfl
    rfl

/-! ## Which CSRR and CSRW words are legal (30_encoding R70 (c)) -/

theorem eq_csrr_of_opcodeOf {i : Instr} (h : opcodeOf i = 0x10#8) : ∃ csr, i = .csrr csr := by
  cases i <;> simp_all [opcodeOf]

theorem eq_csrw_of_opcodeOf {i : Instr} (h : opcodeOf i = 0x11#8) : ∃ csr val, i = .csrw csr val := by
  cases i <;> simp_all [opcodeOf]

/-- A format C word with CSRR's opcode that decodes has an assigned number and `val` zero. -/
theorem operands_of_decode_csrr {csr val : Byte} {i : Instr} (h : decode (formatC 0x10#8 csr val) = .ok i) :
    CsrAssigned csr ∧ val = 0x00#8 := by
  obtain ⟨he, hi⟩ := decode_eq_ok_iff_encode_eq.mp h
  obtain ⟨c, rfl⟩ := eq_csrr_of_opcodeOf (by rw [← wordOp_encode, he, wordOp_formatC])
  obtain ⟨-, -, hcsr, hval⟩ := formatC_eq_iff.mp he
  rw [wordMid_formatC] at hcsr
  rw [wordLow_formatC] at hval
  exact ⟨hcsr ▸ of_decide_eq_true hi, hval⟩

theorem csrAssigned_of_decode_csrw {csr val : Byte} {i : Instr} (h : decode (formatC 0x11#8 csr val) = .ok i) :
    CsrAssigned csr := by
  obtain ⟨he, hi⟩ := decode_eq_ok_iff_encode_eq.mp h
  obtain ⟨c, v, rfl⟩ := eq_csrw_of_opcodeOf (by rw [← wordOp_encode, he, wordOp_formatC])
  obtain ⟨-, -, hcsr, -⟩ := formatC_eq_iff.mp he
  rw [wordMid_formatC] at hcsr
  exact hcsr ▸ of_decide_eq_true hi

/-! ## The values of the registers (10_state R17 to R24) -/

theorem zext32_toNat (v : Byte) : (zext32 v).toNat = v.toNat := BitVec.toNat_setWidth_of_le (by decide)

/-- STATUS is WVALID above ERR, zero-extended (10_state R17). -/
theorem statusValue_fields (s : State) :
    (statusValue s).extractLsb' 0 8 = s.err ∧ (statusValue s).getLsbD 8 = s.wvalid ∧
      (statusValue s).extractLsb' 9 23 = 0#23 := by
  refine ⟨?_, statusValue_getLsbD_wvalid s, ?_⟩ <;> ext i hi <;>
    simp only [statusValue, BitVec.getElem_extractLsb', BitVec.getLsbD_setWidth, BitVec.getLsbD_append]
  · simp [hi, show i < 32 by omega]
  · cases s.wvalid <;> simp [flagByte, show ¬ 9 + i < 8 by omega, show 9 + i - 8 ≠ 0 by omega]

/-- CTRL is IE, zero-extended (10_state R18). -/
theorem ctrlValue_fields (s : State) : (ctrlValue s).getLsbD 0 = s.ie ∧ (ctrlValue s).extractLsb' 1 31 = 0#31 := by
  unfold ctrlValue
  cases s.ie <;> decide

theorem exec_csrr {csr : Byte} {s : State} {v : Word} (hv : csrValue csr s = some v) :
    exec (.csrr csr) s = .next (s.answer ⟨s.err, v⟩) := by
  simp only [exec, execCsrr, hv, respond_eq]

/-- Settles O16: an assigned number has a value, which is the register's; `operands_of_decode_csrr` says which words
are legal. -/
theorem csrrAnswersTheRegister : Obligations.CsrrAnswersTheRegister := by
  refine ⟨fun _ => BitVec.or_zero, fun csr s hcsr => ?_, fun csr val hbad i hd => ?_⟩
  · obtain ⟨v, hv⟩ := Option.ne_none_iff_exists'.mp fun hn => (csrValue_eq_none_iff csr s).mp hn hcsr
    refine ⟨v, exec_csrr hv, ?_, ?_, ?_, ?_, ?_, ?_, ?_, ?_⟩ <;> rintro rfl <;> cases hv
    · rfl
    · exact statusValue_fields s
    · exact ctrlValue_fields s
    · exact zext32_toNat s.npts
    · exact zext32_toNat s.m
    · exact zext32_toNat s.res
    · rfl
    · exact BitVec.toNat_setWidth_of_le (by decide)
  · obtain ⟨hcsr, hval⟩ := operands_of_decode_csrr hd
    exact hbad.elim (Nat.not_le_of_lt hcsr) (absurd hval)

theorem exec_csrw_halted {s : State} (h : s.err ≠ 0x00#8) (csr val : Byte) :
    exec (.csrw csr val) s = .next s.refusedCommand := by
  rw [exec_eq, outcome_refused h rfl]
  rfl

theorem exec_csrw_completes {csr : Byte} {s : State} (h : s.err = 0x00#8) (val : Byte)
    (hf : faultOf (.csrw csr val) s = none) :
    exec (.csrw csr val) s = .next ((effect (.csrw csr val) s).answered 0x00000000#32) := by
  rw [exec_eq, outcome_completes (.inl h) hf]
  rfl

/-- Settles O17: `faultOf` is none for the writable registers and ACCESS for the read-only ones. -/
theorem csrwWritesTheWritableRegisters : Obligations.CsrwWritesTheWritableRegisters := by
  refine ⟨fun _ _ => rfl, fun val s hr => ?_, fun csr val s hr hro => ?_,
    fun csr val s hh => exec_csrw_halted hh csr val, fun csr val hcsr i hd => Nat.not_le_of_lt (csrAssigned_of_decode_csrw hd) hcsr⟩
  · exact ⟨exec_csrw_completes hr val rfl, exec_csrw_completes hr val rfl, exec_csrw_completes hr val rfl⟩
  · have hf : faultOf (.csrw csr val) s = some (.access, 0x00#8, csr) := by
      rcases hro with rfl | rfl | rfl | rfl | rfl <;> rfl
    rw [exec_eq, outcome_fault hr hf]
    rfl

end Sys2Proof.Machine

namespace Sys2Proof.Machine

/-! # The local memory commands (41_loadstore R91 to R93)

Each is the outcome of its shape, so the clauses left to prove are about the words, and about reading the local space
after a write or a fill. -/

/-! ## What `exec` answers, by the shape of the outcome -/

theorem exec_halted {i : Instr} {s : State} (h : s.err ≠ 0x00#8) (hi : executesHalted i = false) :
    exec i s = .next s.refusedCommand := by
  rw [exec_eq, outcome_refused h hi]
  rfl

theorem exec_of_faultOf_eq_some {i : Instr} {s : State} {c : FaultCode} {hi lo : Byte} (h : s.err = 0x00#8)
    (hf : faultOf i s = some (c, hi, lo)) :
    exec i s = .next (s.faulted (faultCode c) (encode i) (hi ++ lo)) := by
  rw [exec_eq, outcome_fault h hf]
  rfl

theorem exec_of_faultOf_eq_none {i : Instr} {s : State} (h : s.err = 0x00#8) (hf : faultOf i s = none) :
    exec i s = .next ((effect i s).answered (responseData i s)) := by
  rw [exec_eq, outcome_completes (.inl h) hf]
  rfl

/-! ## LD -/

theorem eq_ld_of_opcodeOf {i : Instr} (h : opcodeOf i = 0x20#8) : ∃ addr, i = .ld addr := by
  cases i <;> simp_all [opcodeOf]

/-- A word with LD's opcode that decodes has its must-be-zero bits and its data field zero. -/
theorem fields_of_decode_ld {w : Word} {i : Instr} (hop : w.extractLsb' 24 8 = 0x20#8) (h : decode w = .ok i) :
    w.extractLsb' 0 8 = 0#8 ∧ w.extractLsb' 18 6 = 0#6 := by
  obtain ⟨rfl, -⟩ := decode_eq_ok_iff_encode_eq.mp h
  obtain ⟨addr, rfl⟩ := eq_ld_of_opcodeOf ((wordOp_encode i).symm.trans hop)
  obtain ⟨-, hz, -, hdata⟩ := formatM_eq_iff.mp (rfl : encode (.ld addr) = _)
  exact ⟨hdata, hz⟩

theorem exec_ld {s : State} (h : s.err = 0x00#8) (addr : BitVec 10) :
    exec (.ld addr) s = .next (s.answered (zext32 (Memory.read s.mem addr.toNat))) := by
  rw [exec_of_faultOf_eq_none h rfl, ← memRead_eq]
  rfl

/-- Settles O18: LD completes on every address, and `fields_of_decode_ld` says which words are legal. -/
theorem ldAnswersTheByteAtTheAddress : Obligations.LdAnswersTheByteAtTheAddress := by
  refine ⟨fun _ => BitVec.or_zero, fun addr s hr => exec_ld hr addr, fun addr s hh => exec_halted hh rfl,
    fun w hop hbad i hd => ?_, fun _ => Memory.read_nil _⟩
  obtain ⟨hdata, hz⟩ := fields_of_decode_ld hop hd
  exact hbad.elim (absurd hdata) (absurd hz)

/-! ## ST -/

/-- Below the bank of the weights a store is the write of one byte, and of WVALID (20_memory R42). -/
theorem memWrite_eq_of_lt {addr : BitVec 10} (h : addr.toNat < 0x300) (v : Byte) (s : State) :
    memWrite addr v s = { s with
      mem := Memory.write s.mem addr.toNat v, wvalid := if addr.toNat < 0x100 then false else s.wvalid } := by
  have hframe : memWrite addr v s =
      { s with mem := (memWrite addr v s).mem, wvalid := (memWrite addr v s).wvalid } := by
    unfold memWrite
    split <;> rfl
  rw [hframe, memWrite_mem, memWrite_wvalid, if_neg (Nat.not_le_of_lt h)]

theorem faultOf_st (addr : BitVec 10) (data : Byte) (s : State) :
    faultOf (.st addr data) s = if 0x300 ≤ addr.toNat then some (.access, 0x03#8, addrIndex addr) else none := by
  simp only [faultOf, addrBank_eq_lw_iff]

theorem exec_st {addr : BitVec 10} {s : State} (h : s.err = 0x00#8) (ha : addr.toNat < 0x300) (data : Byte) :
    exec (.st addr data) s = .next { s with
      mem := Memory.write s.mem addr.toNat data, wvalid := if addr.toNat < 0x100 then false else s.wvalid,
      responses := s.responses ++ [⟨0x00#8, 0x00000000#32⟩] } := by
  have hf : faultOf (.st addr data) s = none := by rw [faultOf_st, if_neg (Nat.not_le_of_lt ha)]
  rw [exec_of_faultOf_eq_none h hf, effect, memWrite_eq_of_lt ha, ← h]
  rfl

/-- Settles O19: below 0x300 ST is `exec_st`, and from 0x300 on the address is in the bank that faults. -/
theorem stWritesOneByteOfThreeBanks : Obligations.StWritesOneByteOfThreeBanks := by
  refine ⟨fun _ _ => rfl, fun addr data s hwf hr ha => ?_, fun addr data s hr ha => ?_,
    fun addr data s hh => exec_halted hh rfl⟩
  · exact ⟨_, exec_st hr ha data, rfl, fun a => Memory.read_write hwf.sorted addr.toNat a data⟩
  · exact exec_of_faultOf_eq_some hr ((faultOf_st addr data s).trans (if_pos ha))

/-! ## LDSEQ -/

theorem exec_ldseq {s : State} (h : s.err = 0x00#8) :
    exec .ldseq s = .next { s with
      mem := (effect .ldseq s).mem, wvalid := false, responses := s.responses ++ [⟨0x00#8, 0x00000000#32⟩] } := by
  rw [exec_of_faultOf_eq_none h rfl, ← h]
  rfl

/-- XS begins at address 0, so the points in use are the addresses below NPTS (20_memory R41). -/
theorem read_effect_ldseq {s : State} (hwf : Memory.wf s.mem) (a : Nat) :
    Memory.read (effect .ldseq s).mem a = if a < s.npts.toNat then indexByte (a + 1) else Memory.read s.mem a := by
  simp [effect, Memory.read_fill hwf.sorted, bankBase]

/-- NPTS is at most 255, so j+1 fits a byte for every point in use. -/
theorem toNat_xs_effect_ldseq {s : State} (hwf : Memory.wf s.mem) {j : Nat} (hj : j < s.npts.toNat) :
    ((effect .ldseq s).xs j).toNat = j + 1 := by
  have hlt : s.npts.toNat < 256 := s.npts.isLt
  rw [State.xs, State.entry, bankBase, Nat.zero_add, read_effect_ldseq hwf, if_pos hj, indexByte, BitVec.toNat_ofNat]
  exact Nat.mod_eq_of_lt (by omega)

/-- Points that are j+1 as numbers are nonzero and pairwise distinct. -/
theorem xs_nonzero_and_distinct {t : State} {n : Nat} (h : ∀ j, j < n → (t.xs j).toNat = j + 1) :
    (∀ j, j < n → t.xs j ≠ 0x00#8) ∧ ∀ j k, j < k → k < n → t.xs j ≠ t.xs k := by
  refine ⟨fun j hj hz => ?_, fun j k hjk hk he => ?_⟩
  · exact Nat.succ_ne_zero j ((h j hj).symm.trans (congrArg BitVec.toNat hz))
  · have hsucc : j + 1 = k + 1 := by rw [← h j (hjk.trans hk), he, h k hk]
    omega

/-- Settles O20: reading after the fill gives the points, and their numbers j+1 that none is zero and no two are
equal. -/
theorem ldseqFillsThePointsInSequence : Obligations.LdseqFillsThePointsInSequence := by
  refine ⟨rfl, fun s hwf hr => ?_, fun s hh => exec_halted hh rfl⟩
  have hpoint (j : Nat) (hj : j < s.npts.toNat) := toNat_xs_effect_ldseq hwf hj
  exact ⟨_, exec_ldseq hr, rfl, read_effect_ldseq hwf, hpoint, xs_nonzero_and_distinct hpoint⟩

end Sys2Proof.Machine

namespace Sys2Proof.Machine

/-! # The field laws (42_gf_scalar R102 to R104)

Multiplication by a fixed byte is linear: it respects exclusive-or and commutes with `mulx`. A linear map may be moved
into the left factor of a product (`MulxLinear.map_gmul`), and from this commutativity and associativity follow. -/

/-! ## Linear maps -/

/-- A map of bytes that is linear over the polynomials in x: it respects addition and multiplication by x. -/
structure MulxLinear (f : Byte → Byte) : Prop where
  map_xor : ∀ a b, f (a ^^^ b) = f a ^^^ f b
  map_mulx : ∀ a, f (mulx a) = mulx (f a)

theorem MulxLinear.map_zero {f : Byte → Byte} (h : MulxLinear f) : f 0x00#8 = 0x00#8 := by
  have h0 : f 0x00#8 = f 0x00#8 ^^^ f 0x00#8 := h.map_xor 0x00#8 0x00#8
  rwa [BitVec.xor_self] at h0

theorem ite_getLsbD_xor {v w : Nat} (b c : BitVec v) (i : Nat) (p : BitVec w) :
    (if (b ^^^ c).getLsbD i then p else 0#w) =
      (if b.getLsbD i then p else 0#w) ^^^ (if c.getLsbD i then p else 0#w) := by
  rw [BitVec.getLsbD_xor]
  cases b.getLsbD i <;> cases c.getLsbD i <;> simp

theorem ite_xor_self {w : Nat} (x : Bool) (r p : BitVec w) :
    (if x then r ^^^ p else r) = r ^^^ (if x then p else 0#w) := by
  cases x <;> simp

theorem mulx_xor (a b : Byte) : mulx (a ^^^ b) = mulx a ^^^ mulx b := by
  simp only [mulx, BitVec.shiftLeft_xor_distrib, ite_getLsbD_xor]
  ac_rfl

theorem MulxLinear.map_gmulLoop {f : Byte → Byte} (h : MulxLinear f) (b : Byte) (n i : Nat) (p r : Byte) :
    f (gmulLoop b n i p r) = gmulLoop b n i (f p) (f r) := by
  induction n generalizing i p r with
  | zero => rfl
  | succ n ih => rw [gmulLoop, gmulLoop, ih, apply_ite f, h.map_xor, h.map_mulx]

theorem MulxLinear.map_gmul {f : Byte → Byte} (h : MulxLinear f) (a b : Byte) : f (gmul a b) = gmul (f a) b := by
  rw [gmul, h.map_gmulLoop, h.map_zero, gmul]

/-! ## The product is linear in each factor -/

theorem gmulLoop_succ (b : Byte) (n i : Nat) (p r : Byte) :
    gmulLoop b (n + 1) i p r = gmulLoop b n (i + 1) (mulx p) (r ^^^ if b.getLsbD i then p else 0x00#8) := by
  rw [gmulLoop, ite_xor_self]

theorem gmulLoop_xor_left (b : Byte) (n i : Nat) (p p' r r' : Byte) :
    gmulLoop b n i (p ^^^ p') (r ^^^ r') = gmulLoop b n i p r ^^^ gmulLoop b n i p' r' := by
  induction n generalizing i p p' r r' with
  | zero => rfl
  | succ n ih =>
    have hadd : (if b.getLsbD i then p ^^^ p' else 0x00#8) =
        (if b.getLsbD i then p else 0x00#8) ^^^ (if b.getLsbD i then p' else 0x00#8) := by split <;> rfl
    simp only [gmulLoop_succ, ← ih, mulx_xor, hadd]
    congr 1
    ac_rfl

theorem gmulLoop_xor_right (b c : Byte) (n i : Nat) (p r r' : Byte) :
    gmulLoop (b ^^^ c) n i p (r ^^^ r') = gmulLoop b n i p r ^^^ gmulLoop c n i p r' := by
  induction n generalizing i p r r' with
  | zero => rfl
  | succ n ih =>
    simp only [gmulLoop_succ, ← ih, ite_getLsbD_xor]
    congr 1
    ac_rfl

theorem xor_gmul (a b c : Byte) : gmul (a ^^^ b) c = gmul a c ^^^ gmul b c :=
  gmulLoop_xor_left c 8 0 a b 0x00#8 0x00#8

theorem gmul_xor (a b c : Byte) : gmul a (b ^^^ c) = gmul a b ^^^ gmul a c :=
  gmulLoop_xor_right b c 8 0 a 0x00#8 0x00#8

theorem mulxLinear_mulx : MulxLinear mulx := ⟨mulx_xor, fun _ => rfl⟩

theorem mulxLinear_gmul_right (c : Byte) : MulxLinear (gmul · c) :=
  ⟨fun a b => xor_gmul a b c, fun a => (mulxLinear_mulx.map_gmul a c).symm⟩

@[simp] theorem one_gmul (a : Byte) : gmul 0x01#8 a = a := by
  revert a
  decide +kernel

theorem gmul_comm (a b : Byte) : gmul a b = gmul b a := by
  simpa using (mulxLinear_gmul_right b).map_gmul 0x01#8 a

theorem mulxLinear_gmul_left (c : Byte) : MulxLinear (gmul c) := by
  rw [funext (gmul_comm c)]
  exact mulxLinear_gmul_right c

theorem gmul_assoc (a b c : Byte) : gmul (gmul a b) c = gmul a (gmul b c) :=
  ((mulxLinear_gmul_left a).map_gmul b c).symm

@[simp] theorem gmul_zero (a : Byte) : gmul a 0x00#8 = 0x00#8 := (mulxLinear_gmul_left a).map_zero

@[simp] theorem zero_gmul (a : Byte) : gmul 0x00#8 a = 0x00#8 := (mulxLinear_gmul_right a).map_zero

@[simp] theorem gmul_one (a : Byte) : gmul a 0x01#8 = a := (gmul_comm a 0x01#8).trans (one_gmul a)

/-! ## Powers -/

@[simp] theorem gpow_zero (a : Byte) : gpow a 0 = 0x01#8 := rfl

theorem gpow_succ (a : Byte) (n : Nat) : gpow a (n + 1) = gmul (gpow a n) a := rfl

@[simp] theorem gpow_one (a : Byte) : gpow a 1 = a := one_gmul a

theorem gpow_add (a : Byte) (m n : Nat) : gpow a (m + n) = gmul (gpow a m) (gpow a n) := by
  induction n with
  | zero => simp
  | succ n ih => rw [← Nat.add_assoc, gpow_succ, gpow_succ, ih, gmul_assoc]

theorem gpow_mul (a : Byte) (m n : Nat) : gpow a (m * n) = gpow (gpow a m) n := by
  induction n with
  | zero => rfl
  | succ n ih => rw [Nat.mul_succ, gpow_add, ih, gpow_succ]

@[simp] theorem one_gpow (n : Nat) : gpow 0x01#8 n = 0x01#8 := by
  induction n with
  | zero => rfl
  | succ n ih => rw [gpow_succ, ih, gmul_one]

/-- Squaring `n` times multiplies a^2 · a^4 · ... · a^(2^n) into the result. -/
theorem squareLoop_eq (n : Nat) (p r : Byte) : squareLoop n p r = gmul r (gpow p (2 ^ (n + 1) - 2)) := by
  induction n generalizing p r with
  | zero => simp [squareLoop]
  | succ n ih =>
    have hsq : gmul p p = gpow p 2 := by rw [gpow_succ, gpow_one]
    have hexp : 2 + 2 * (2 ^ (n + 1) - 2) = 2 ^ (n + 2) - 2 := by
      have hpos : 0 < 2 ^ n := Nat.two_pow_pos n
      rw [pow_succ 2 (n + 1)]
      omega
    rw [squareLoop, ih, hsq, gmul_assoc, ← gpow_mul, ← gpow_add, hexp]

theorem ginv_eq_gpow (a : Byte) : ginv a = gpow a 254 := (squareLoop_eq 7 a 0x01#8).trans (one_gmul _)

end Sys2Proof.Machine

namespace Sys2Proof.Machine

/-! # The carry-less product and its reduction (42_gf_scalar R103)

The reduction is additive, and a shift by one place below the top bit is reduced to `mulx`. So the partial sums of the
carry-less product are reduced to those of the shift-and-add loop. -/

/-- The reduction of a 15-bit polynomial, from bit 14 down to bit 8. -/
def reducePoly (c : BitVec 15) : Byte := ([14, 13, 12, 11, 10, 9, 8].foldl reduceAt c).setWidth 8

theorem carrylessMul_eq_reducePoly (a b : Byte) : carrylessMul a b = reducePoly (carrylessProduct a b) := rfl

theorem reduceAt_xor (c d : BitVec 15) (i : Nat) : reduceAt (c ^^^ d) i = reduceAt c i ^^^ reduceAt d i := by
  simp only [reduceAt, ite_xor_self, ite_getLsbD_xor]
  ac_rfl

theorem reducePoly_xor (c d : BitVec 15) : reducePoly (c ^^^ d) = reducePoly c ^^^ reducePoly d := by
  simp only [reducePoly, List.foldl, reduceAt_xor, BitVec.setWidth_xor]

theorem reduceAt_of_getLsbD_eq_false {c : BitVec 15} {i : Nat} (h : c.getLsbD i = false) : reduceAt c i = c := by
  simp [reduceAt, h]

/-- A reduction step one place up is the step, one place up. -/
theorem reduceAt_shiftLeft {c : BitVec 15} {i : Nat} (hi : 8 ≤ i) (hi' : i < 14) :
    reduceAt (c <<< 1) (i + 1) = reduceAt c i <<< 1 := by
  have hbit : (c <<< 1).getLsbD (i + 1) = c.getLsbD i := by
    simp [show i + 1 < 15 by omega, BitVec.getLsbD_eq_getElem (show i < 15 by omega)]
  rw [reduceAt, reduceAt, hbit, Nat.succ_sub hi, Nat.succ_eq_add_one, BitVec.shiftLeft_add]
  split
  · exact (BitVec.shiftLeft_xor_distrib ..).symm
  · rfl

/-- The last reduction step, at bit 8, is the reduction of `mulx`. -/
theorem setWidth_reduceAt_shiftLeft (d : BitVec 15) : (reduceAt (d <<< 1) 8).setWidth 8 = mulx (d.setWidth 8) := by
  have hshift : (d <<< 1).setWidth 8 = d.setWidth 8 <<< 1 := by
    ext i hi
    simp
  have hbit : (d <<< 1).getLsbD 8 = (d.setWidth 8).getLsbD 7 := by simp
  rw [reduceAt, mulx, ite_xor_self, BitVec.setWidth_xor, hshift, hbit, apply_ite (BitVec.setWidth 8)]
  rfl

/-- With bit 14 clear, a shift by one place is reduced to a multiplication by x. -/
theorem reducePoly_shiftLeft {c : BitVec 15} (h : c.getLsbD 14 = false) :
    reducePoly (c <<< 1) = mulx (reducePoly c) := by
  simp (disch := decide) only [reducePoly, List.foldl, reduceAt_shiftLeft, reduceAt_of_getLsbD_eq_false h]
  exact setWidth_reduceAt_shiftLeft _

theorem reducePoly_setWidth (a : Byte) : reducePoly (a.setWidth 15) = a := by
  have h : ∀ i ∈ [14, 13, 12, 11, 10, 9, 8], reduceAt (a.setWidth 15) i = a.setWidth 15 := by
    intro i hi
    have hge : 8 ≤ i := by revert i; decide
    exact reduceAt_of_getLsbD_eq_false (by simp [BitVec.getLsbD_of_ge a i hge])
  simp [reducePoly, h]

/-- a · x^i, of degree at most 14, is reduced to `i` multiplications by x. -/
theorem reducePoly_setWidth_shiftLeft (a : Byte) {i : Nat} (hi : i < 8) :
    reducePoly (a.setWidth 15 <<< i) = mulx^[i] a := by
  induction i with
  | zero => exact (congrArg reducePoly (BitVec.shiftLeft_zero _)).trans (reducePoly_setWidth a)
  | succ i ih =>
    have htop : (a.setWidth 15 <<< i).getLsbD 14 = false := by
      simp [BitVec.getLsbD_of_ge a (14 - i) (by omega)]
    rw [BitVec.shiftLeft_add, reducePoly_shiftLeft htop, ih (by omega), Function.iterate_succ_apply']

/-- One step of the carry-less product at bit `i`. -/
def carrylessStep (a b : Byte) (c : BitVec 15) (i : Nat) : BitVec 15 :=
  if b.getLsbD i then c ^^^ (a.setWidth 15 <<< i) else c

theorem carrylessProduct_eq_foldl (a b : Byte) :
    carrylessProduct a b = (List.range' 0 8).foldl (carrylessStep a b) 0#15 := rfl

/-- The two loops in step: from bit `i` on, the shift-and-add loop computes the reduction of the carry-less sum. -/
theorem gmulLoop_reducePoly (a b : Byte) {n i : Nat} (h : i + n ≤ 8) (c : BitVec 15) :
    gmulLoop b n i (mulx^[i] a) (reducePoly c) = reducePoly ((List.range' i n).foldl (carrylessStep a b) c) := by
  induction n generalizing i c with
  | zero => rfl
  | succ n ih =>
    have hstep : reducePoly (carrylessStep a b c i) =
        if b.getLsbD i then reducePoly c ^^^ mulx^[i] a else reducePoly c := by
      rw [carrylessStep, apply_ite reducePoly, reducePoly_xor, reducePoly_setWidth_shiftLeft a (by omega)]
    rw [gmulLoop, ← hstep, ← Function.iterate_succ_apply' mulx, ih (by omega), List.range'_succ, List.foldl_cons]

theorem carrylessMul_eq_gmul (a b : Byte) : carrylessMul a b = gmul a b := by
  have hzero : reducePoly 0#15 = 0x00#8 := by decide
  rw [carrylessMul_eq_reducePoly, carrylessProduct_eq_foldl, ← gmulLoop_reducePoly a b (by decide), hzero]
  rfl

theorem mulx_eq_gmul_two (a : Byte) : mulx a = gmul a 0x02#8 := by
  have htwo : mulx 0x01#8 = 0x02#8 := by decide
  rw [gmul_comm, ← htwo, ← mulxLinear_mulx.map_gmul, one_gmul]

/-- Settles O21: the reduction takes the partial sums of the carry-less product to those of the shift-and-add loop. -/
theorem productEqualsReducedCarrylessProduct : Obligations.ProductEqualsReducedCarrylessProduct :=
  ⟨mulx_eq_gmul_two, carrylessMul_eq_gmul, rfl, rfl⟩

end Sys2Proof.Machine

namespace Sys2Proof.Machine

/-! # The group of the nonzero bytes (42_gf_scalar R104 to R108)

The tables are checked entry by entry: EXP is the chain of the generator's powers, and LOG names for each nonzero byte
an index at which EXP holds it. So every nonzero byte is a power of the generator, and what follows is arithmetic of
exponents. -/

/-! ## The tables and the generator (R105, R110) -/

/-- Each entry of EXP is the one before it times the generator. -/
theorem expTable_isChain :
    expTable.IsChain fun x y => BitVec.ofNat 8 y = gmul (BitVec.ofNat 8 x) Config.generator := by
  decide +kernel

theorem expTable_length : expTable.length = 256 := by decide +kernel

theorem expEntry_succ {i : Nat} (hi : i < 255) :
    expEntry (i + 1) = (expEntry i).map (gmul · Config.generator) := by
  have hlen : i + 1 < expTable.length := by rw [expTable_length]; omega
  have hstep := expTable_isChain.getElem i hlen
  simp [expEntry, List.getElem?_eq_getElem hlen, List.getElem?_eq_getElem (Nat.lt_of_succ_lt hlen), hstep]

theorem expEntry_eq_gpow {i : Nat} (hi : i < 256) : expEntry i = some (gpow Config.generator i) := by
  induction i with
  | zero => rfl
  | succ i ih => rw [expEntry_succ (by omega), ih (by omega), Option.map_some, gpow_succ]

/-- EXP holds 0x01 at no index from 1 to 254. -/
theorem expEntry_ne_one : ∀ i < 255, i ≠ 0 → expEntry i ≠ some 0x01#8 := by
  decide +kernel

theorem logTable_lt : ∀ i ∈ logTable, i < 255 := by
  decide +kernel

theorem logEntry_zero : logEntry 0x00#8 = none := rfl

/-- LOG gives an index at which EXP holds the byte. -/
theorem logEntry_bind_expEntry : ∀ x : Byte, x ≠ 0x00#8 → (logEntry x).bind expEntry = some x := by
  decide +kernel

theorem logEntry_lt {x : Byte} {i : Nat} (h : logEntry x = some i) : i < 255 := by
  unfold logEntry at h
  split at h
  · cases h
  · exact logTable_lt i (List.mem_of_getElem? h)

theorem gpow_logEntry {x : Byte} {i : Nat} (h : logEntry x = some i) : gpow Config.generator i = x := by
  have hx : x ≠ 0x00#8 := fun hzero => Option.some_ne_none i (by rw [← h, hzero, logEntry_zero])
  have hexp := logEntry_bind_expEntry x hx
  rw [h, Option.bind_some, expEntry_eq_gpow (Nat.lt_succ_of_lt (logEntry_lt h))] at hexp
  exact Option.some.inj hexp

theorem exists_logEntry_eq {x : Byte} (hx : x ≠ 0x00#8) : ∃ i, logEntry x = some i := by
  obtain ⟨i, hi, -⟩ := Option.bind_eq_some_iff.mp (logEntry_bind_expEntry x hx)
  exact ⟨i, hi⟩

/-! ## The order of the nonzero bytes -/

theorem gpow_generator_255 : gpow Config.generator 255 = 0x01#8 :=
  Option.some.inj ((expEntry_eq_gpow (by decide)).symm.trans rfl)

theorem gpow_255 {a : Byte} (ha : a ≠ 0x00#8) : gpow a 255 = 0x01#8 := by
  obtain ⟨i, hi⟩ := exists_logEntry_eq ha
  rw [← gpow_logEntry hi, ← gpow_mul, Nat.mul_comm, gpow_mul, gpow_generator_255, one_gpow]

theorem gpow_mod_255 {a : Byte} (ha : a ≠ 0x00#8) (n : Nat) : gpow a (n % 255) = gpow a n := by
  conv_rhs => rw [← Nat.mod_add_div n 255, gpow_add, gpow_mul, gpow_255 ha, one_gpow, gmul_one]

theorem generator_ne_zero : Config.generator ≠ 0x00#8 := by decide

theorem gpow_generator_eq_one_iff (n : Nat) : gpow Config.generator n = 0x01#8 ↔ 255 ∣ n := by
  have hlt : n % 255 < 255 := Nat.mod_lt n (by decide)
  rw [← gpow_mod_255 generator_ne_zero, Nat.dvd_iff_mod_eq_zero]
  refine ⟨fun h => ?_, fun h => by rw [h, gpow_zero]⟩
  by_contra hne
  exact expEntry_ne_one _ hlt hne (by rw [expEntry_eq_gpow (Nat.lt_succ_of_lt hlt), h])

/-- 0x02 is the 25th power of the generator, so its order is 255 / gcd(255, 25). -/
theorem gpow_two_eq_one_iff (n : Nat) : gpow 0x02#8 n = 0x01#8 ↔ 51 ∣ n := by
  have htwo : gpow Config.generator 25 = 0x02#8 := Option.some.inj ((expEntry_eq_gpow (by decide)).symm.trans rfl)
  rw [← htwo, ← gpow_mul, gpow_generator_eq_one_iff]
  omega

theorem expEntry_mod_255 (n : Nat) : expEntry (n % 255) = some (gpow Config.generator n) := by
  have hlt : n % 255 < 255 := Nat.mod_lt n (by decide)
  rw [expEntry_eq_gpow (by omega), gpow_mod_255 generator_ne_zero]

/-- Settles O23: the tables by their entries, the two orders by which powers are 0x01. -/
theorem tablesHoldPowersOfTheGenerator : Obligations.TablesHoldPowersOfTheGenerator := by
  refine ⟨fun _ => expEntry_eq_gpow, fun x hx => ?_, logEntry_zero, fun i hpos hi h => ?_, gpow_generator_255,
    (gpow_two_eq_one_iff 51).mpr (dvd_refl 51), fun i hpos hi h => ?_⟩
  · obtain ⟨i, hi⟩ := exists_logEntry_eq hx
    exact ⟨i, logEntry_lt hi, hi, gpow_logEntry hi⟩
  · exact Nat.not_dvd_of_pos_of_lt hpos hi ((gpow_generator_eq_one_iff i).mp h)
  · exact Nat.not_dvd_of_pos_of_lt hpos hi ((gpow_two_eq_one_iff i).mp h)

/-! ## Inverse and quotient (R104, R108, R109) -/

theorem gmul_ginv {a : Byte} (ha : a ≠ 0x00#8) : gmul a (ginv a) = 0x01#8 := by
  rw [ginv_eq_gpow, gmul_comm, ← gpow_succ, gpow_255 ha]

theorem ginv_gmul {a : Byte} (ha : a ≠ 0x00#8) : gmul (ginv a) a = 0x01#8 := by
  rw [gmul_comm, gmul_ginv ha]

/-- A product determines its right factor when the left one is nonzero. -/
theorem ginv_gmul_gmul {a : Byte} (ha : a ≠ 0x00#8) (b : Byte) : gmul (ginv a) (gmul a b) = b := by
  rw [← gmul_assoc, ginv_gmul ha, one_gmul]

theorem eq_zero_or_eq_zero_of_gmul_eq_zero {a b : Byte} (h : gmul a b = 0x00#8) : a = 0x00#8 ∨ b = 0x00#8 :=
  or_iff_not_imp_left.mpr fun ha => by rw [← ginv_gmul_gmul ha b, h, gmul_zero]

theorem gmul_ne_zero {a b : Byte} (ha : a ≠ 0x00#8) (hb : b ≠ 0x00#8) : gmul a b ≠ 0x00#8 :=
  fun h => (eq_zero_or_eq_zero_of_gmul_eq_zero h).elim ha hb

theorem eq_ginv_of_gmul_eq_one {a b : Byte} (ha : a ≠ 0x00#8) (h : gmul a b = 0x01#8) : b = ginv a := by
  rw [← ginv_gmul_gmul ha b, h, gmul_one]

theorem ne_zero_of_gmul_eq_one {a b : Byte} (h : gmul a b = 0x01#8) : a ≠ 0x00#8 := by
  rintro rfl
  rw [zero_gmul] at h
  exact absurd h (by decide)

theorem ginv_one : ginv 0x01#8 = 0x01#8 := by rw [ginv_eq_gpow, one_gpow]

theorem ginv_ginv {a : Byte} (ha : a ≠ 0x00#8) : ginv (ginv a) = a :=
  (eq_ginv_of_gmul_eq_one (ne_zero_of_gmul_eq_one (ginv_gmul ha)) (ginv_gmul ha)).symm

theorem gdiv_gmul_cancel {b : Byte} (hb : b ≠ 0x00#8) (a : Byte) : gmul (gdiv a b) b = a := by
  rw [gdiv, gmul_assoc, ginv_gmul hb, gmul_one]

theorem gmul_gdiv_cancel {b : Byte} (hb : b ≠ 0x00#8) (a : Byte) : gdiv (gmul a b) b = a := by
  rw [gdiv, gmul_assoc, gmul_ginv hb, gmul_one]

theorem gdiv_one (a : Byte) : gdiv a 0x01#8 = a := by rw [gdiv, ginv_one, gmul_one]

theorem zero_gdiv (b : Byte) : gdiv 0x00#8 b = 0x00#8 := zero_gmul (ginv b)

theorem one_gdiv (b : Byte) : gdiv 0x01#8 b = ginv b := one_gmul (ginv b)

theorem gdiv_self {b : Byte} (hb : b ≠ 0x00#8) : gdiv b b = 0x01#8 := gmul_ginv hb

/-- Settles O22: the cyclic generator is 0x03, and LOG gives the exponents. -/
theorem fieldLawsHold : Obligations.FieldLawsHold := by
  refine ⟨gmul_comm, fun a => ⟨gmul_zero a, zero_gmul a⟩, gmul_one, gmul_assoc, gmul_xor,
    fun a b => eq_zero_or_eq_zero_of_gmul_eq_zero, fun a b hb => ⟨gdiv_gmul_cancel hb a, gmul_gdiv_cancel hb a⟩,
    fun a => gpow_255, Config.generator, fun a ha => ?_⟩
  obtain ⟨i, hi⟩ := exists_logEntry_eq ha
  exact ⟨i, logEntry_lt hi, gpow_logEntry hi⟩

/-! ## The table forms (R106 to R108) -/

theorem tableMul_of_logEntry {a b : Byte} {i j : Nat} (ha : logEntry a = some i) (hb : logEntry b = some j) :
    tableMul a b = expEntry ((i + j) % 255) := by
  simp only [tableMul, ha, hb]

theorem tableDiv_of_logEntry {a b : Byte} {i j : Nat} (ha : logEntry a = some i) (hb : logEntry b = some j) :
    tableDiv a b = expEntry ((255 + i - j) % 255) := by
  simp only [tableDiv, ha, hb]

theorem tableInv_of_logEntry {a : Byte} {i : Nat} (ha : logEntry a = some i) :
    tableInv a = expEntry ((255 - i) % 255) := by
  simp only [tableInv, ha]

theorem zero_tableMul (a : Byte) : tableMul 0x00#8 a = some 0x00#8 := rfl

theorem tableMul_zero (a : Byte) : tableMul a 0x00#8 = some 0x00#8 := by
  unfold tableMul
  cases logEntry a <;> rfl

theorem zero_tableDiv (a : Byte) : tableDiv 0x00#8 a = none := rfl

theorem tableDiv_zero (a : Byte) : tableDiv a 0x00#8 = none := by
  unfold tableDiv
  cases logEntry a <;> rfl

theorem tableMul_eq (a b : Byte) : tableMul a b = some (gmul a b) := by
  by_cases ha : a = 0x00#8
  · rw [ha, zero_tableMul, zero_gmul]
  by_cases hb : b = 0x00#8
  · rw [hb, tableMul_zero, gmul_zero]
  obtain ⟨i, hi⟩ := exists_logEntry_eq ha
  obtain ⟨j, hj⟩ := exists_logEntry_eq hb
  rw [tableMul_of_logEntry hi hj, expEntry_mod_255, gpow_add, gpow_logEntry hi, gpow_logEntry hj]

/-- Settles O24: logarithms are below 255, and exponents of any nonzero byte count mod 255. -/
theorem tableMultiplyEqualsProduct : Obligations.TableMultiplyEqualsProduct := by
  refine ⟨tableMul_eq, fun a b i j ha hb => ?_, fun g i j hg => by rw [gpow_mod_255 hg, gpow_add]⟩
  have hi := logEntry_lt ha
  have hj := logEntry_lt hb
  omega

/-- The index is the exponent that, times the denominator, gives the numerator. -/
theorem tableDiv_eq {a b : Byte} (ha : a ≠ 0x00#8) (hb : b ≠ 0x00#8) : tableDiv a b = some (gdiv a b) := by
  obtain ⟨i, hi⟩ := exists_logEntry_eq ha
  obtain ⟨j, hj⟩ := exists_logEntry_eq hb
  have hexp : 255 + i - j + j = 255 + i := by
    have := logEntry_lt hj
    omega
  have hprod : gmul (gpow Config.generator (255 + i - j)) b = a := by
    rw [← gpow_logEntry hj, ← gpow_add, hexp, gpow_add, gpow_generator_255, one_gmul, gpow_logEntry hi]
  rw [tableDiv_of_logEntry hi hj, expEntry_mod_255, ← hprod, gmul_gdiv_cancel hb]

/-- Settles O25: `tableDiv_eq`, and the index bounds from logarithms below 255. -/
theorem tableDivideEqualsQuotient : Obligations.TableDivideEqualsQuotient := by
  refine ⟨fun a b => tableDiv_eq, fun a => ⟨tableDiv_zero a, zero_tableDiv a⟩, fun a b i j ha hb => ?_⟩
  have hi := logEntry_lt ha
  have hj := logEntry_lt hb
  omega

/-- The table inverse is the table divide of 0x01, whose logarithm is 0. -/
theorem tableInv_eq {a : Byte} (ha : a ≠ 0x00#8) : tableInv a = some (ginv a) := by
  obtain ⟨i, hi⟩ := exists_logEntry_eq ha
  have hone : logEntry 0x01#8 = some 0 := rfl
  rw [tableInv_of_logEntry hi, ← one_gdiv, ← tableDiv_eq (by decide) ha, tableDiv_of_logEntry hone hi, Nat.add_zero]

/-- Every entry of the printed table INV has the product 0x01 with its byte. -/
theorem invEntry_map_gmul : ∀ a : Byte, a ≠ 0x00#8 → (invEntry a).map (gmul a) = some 0x01#8 := by
  decide +kernel

theorem invEntry_eq {a : Byte} (ha : a ≠ 0x00#8) : invEntry a = some (ginv a) := by
  obtain ⟨b, hb, hprod⟩ := Option.map_eq_some_iff.mp (invEntry_map_gmul a ha)
  rw [hb, eq_ginv_of_gmul_eq_one ha hprod]

/-- Settles O26: a product of 0x01 determines the other factor, so every form gives the same byte. -/
theorem inverseIsUniqueAndTabled : Obligations.InverseIsUniqueAndTabled :=
  ⟨fun a ha => ⟨gmul_ginv ha, fun _ => eq_ginv_of_gmul_eq_one ha, ginv_eq_gpow a, tableInv_eq ha, invEntry_eq ha⟩,
    rfl, rfl, fun _ h => ne_zero_of_gmul_eq_one h rfl⟩

end Sys2Proof.Machine

namespace Sys2Proof.Machine

/-! # The scalar commands (42_gf_scalar R111 to R114)

Each is the outcome of its shape (`exec_of_faultOf_eq_none`, `exec_of_faultOf_eq_some`, `exec_halted`); the clauses
about values are field laws. -/

theorem exec_gfdiv {b : Byte} {s : State} (h : s.err = 0x00#8) (hb : b ≠ 0x00#8) (a : Byte) :
    exec (.gfdiv a b) s = .next ((s.setRes (gdiv a b)).answered (zext32 (gdiv a b))) :=
  exec_of_faultOf_eq_none h (if_neg hb)

theorem exec_gfinv {a : Byte} {s : State} (h : s.err = 0x00#8) (ha : a ≠ 0x00#8) :
    exec (.gfinv a) s = .next ((s.setRes (ginv a)).answered (zext32 (ginv a))) :=
  exec_of_faultOf_eq_none h (if_neg ha)

theorem exec_gfdiv_zero {s : State} (h : s.err = 0x00#8) (a : Byte) :
    exec (.gfdiv a 0x00#8) s = .next (s.faulted 0x03#8 (encode (.gfdiv a 0x00#8)) 0x0000#16) :=
  exec_of_faultOf_eq_some (c := .divZero) (hi := 0x00#8) (lo := 0x00#8) h rfl

theorem exec_gfinv_zero {s : State} (h : s.err = 0x00#8) :
    exec (.gfinv 0x00#8) s = .next (s.faulted 0x03#8 (encode (.gfinv 0x00#8)) 0x0000#16) :=
  exec_of_faultOf_eq_some (c := .divZero) (hi := 0x00#8) (lo := 0x00#8) h rfl

/-- Settles O27: GFADD takes no fault, so it completes while running and is refused while halted. -/
theorem gfaddWritesTheExclusiveOr : Obligations.GfaddWritesTheExclusiveOr := fun _ _ _ =>
  ⟨rfl, fun hr => exec_of_faultOf_eq_none hr rfl, fun hh => exec_halted hh rfl⟩

/-- Settles O28: GFMUL takes no fault, and its corner cases are field laws. -/
theorem gfmulWritesTheProduct : Obligations.GfmulWritesTheProduct := fun a b _ =>
  ⟨rfl, fun hr => exec_of_faultOf_eq_none hr rfl, fun hh => exec_halted hh rfl, gmul_zero a, zero_gmul b, gmul_one a,
    one_gmul b, gmul_ne_zero⟩

/-- Settles O29: GFDIV completes for a nonzero denominator and takes DIV_ZERO for a zero one. -/
theorem gfdivWritesTheQuotient : Obligations.GfdivWritesTheQuotient := fun a b _ =>
  ⟨rfl, fun hr hb => ⟨gdiv_gmul_cancel hb a, exec_gfdiv hr hb a⟩, fun hr => exec_gfdiv_zero hr a,
    fun hh => exec_halted hh rfl, fun hb => ⟨zero_gdiv b, gdiv_self hb⟩, gdiv_one a⟩

theorem exec_gfinv_eq_exec_gfdiv {a : Byte} (ha : a ≠ 0x00#8) (s : State) :
    exec (.gfinv a) s = exec (.gfdiv 0x01#8 a) s := by
  by_cases hr : s.err = 0x00#8
  · rw [exec_gfinv hr ha, exec_gfdiv hr ha, one_gdiv]
  · rw [exec_halted hr rfl, exec_halted hr rfl]

/-- Settles O30: GFINV completes for a nonzero operand, as the quotient of 0x01, and takes DIV_ZERO for 0x00. -/
theorem gfinvWritesTheInverse : Obligations.GfinvWritesTheInverse := fun _ s =>
  ⟨rfl, fun hr ha => ⟨gmul_ginv ha, exec_gfinv hr ha⟩, exec_gfinv_zero,
    fun hh => exec_halted hh rfl, fun ha => exec_gfinv_eq_exec_gfdiv ha s, ginv_one, ginv_ginv⟩

end Sys2Proof.Machine

namespace Sys2Proof.Machine

/-! # The value of a polynomial (43_polyeval R120 to R122, R126)

Both loops compute the sum of the terms c_k · x^k. Read in a field, where exclusive-or is addition, the values at
distinct points are a Vandermonde system in the coefficients. -/

/-! ## Sums of terms (R120) -/

theorem xorOver_one (e : Nat → Byte) : xorOver 1 e = e 0 := BitVec.zero_xor

theorem xorOver_succ (n : Nat) (e : Nat → Byte) : xorOver (n + 1) e = xorOver n e ^^^ e n := by
  simp [xorOver, List.range_succ]

/-- The term c_k · x^k of a polynomial. -/
def polyTerm (c : Nat → Byte) (x : Byte) (k : Nat) : Byte := gmul (c k) (gpow x k)

theorem polyTerm_zero (c : Nat → Byte) (x : Byte) : polyTerm c x 0 = c 0 := gmul_one (c 0)

theorem polyTerm_one (c : Nat → Byte) : polyTerm c 0x01#8 = c := funext fun k => by rw [polyTerm, one_gpow, gmul_one]

/-! ## The two loops (R121, R122) -/

/-- From iteration `k` on, with x^k as the running power and the terms below `k` summed, the loop adds `n` terms. -/
theorem pevalLoop_gpow (c : Nat → Byte) (x : Byte) (n k : Nat) :
    pevalLoop c x n k (gpow x k) (xorOver k (polyTerm c x)) = xorOver (k + n) (polyTerm c x) := by
  induction n generalizing k with
  | zero => rfl
  | succ n ih =>
    have hterm : gmul (gpow x k) (c k) = polyTerm c x k := gmul_comm _ _
    rw [pevalLoop, hterm, ← gpow_succ, ← xorOver_succ, ih, Nat.add_right_comm, Nat.add_assoc]

theorem peval_eq_xorOver {m : Nat} (hm : 1 ≤ m) (c : Nat → Byte) (x : Byte) :
    peval c m x = xorOver m (polyTerm c x) := by
  have hloop := pevalLoop_gpow c x (m - 1) 1
  rwa [gpow_one, xorOver_one, polyTerm_zero, Nat.add_sub_of_le hm] at hloop

/-- Horner's loop multiplies the coefficients it has taken in by x once for each one below them. -/
theorem hornerLoop_eq (c : Nat → Byte) (x : Byte) (k : Nat) (acc : Byte) :
    hornerLoop c x k acc = xorOver k (polyTerm c x) ^^^ gmul acc (gpow x k) := by
  induction k generalizing acc with
  | zero => exact ((congrArg _ (gmul_one acc)).trans BitVec.zero_xor).symm
  | succ k ih =>
    calc hornerLoop c x (k + 1) acc
      _ = xorOver k (polyTerm c x) ^^^ (gmul (gmul acc x) (gpow x k) ^^^ polyTerm c x k) := by
        rw [hornerLoop, ih, xor_gmul, polyTerm]
      _ = xorOver (k + 1) (polyTerm c x) ^^^ gmul acc (gpow x (k + 1)) := by
        rw [xorOver_succ, gmul_assoc, gmul_comm x, ← gpow_succ, BitVec.xor_comm (gmul acc _), BitVec.xor_assoc]

theorem horner_eq_xorOver {m : Nat} (hm : 1 ≤ m) (c : Nat → Byte) (x : Byte) :
    horner c m x = xorOver m (polyTerm c x) := by
  obtain ⟨n, rfl⟩ := Nat.exists_eq_add_of_le' hm
  exact (hornerLoop_eq c x n (c n)).trans (xorOver_succ n (polyTerm c x)).symm

/-- Settles O32: both loops compute the sum of the terms. -/
theorem hornerEqualsRunningPower : Obligations.HornerEqualsRunningPower := fun c _ x hm => by
  rw [horner_eq_xorOver hm, peval_eq_xorOver hm]

/-- With a running power of 0x00 the loop adds nothing. -/
theorem pevalLoop_zero (c : Nat → Byte) (n k : Nat) (sum : Byte) : pevalLoop c 0x00#8 n k 0x00#8 sum = sum := by
  induction n generalizing k sum with
  | zero => rfl
  | succ n ih => rw [pevalLoop, zero_gmul, zero_gmul, ih, BitVec.xor_zero]

theorem peval_one_coefficient (c : Nat → Byte) (x : Byte) : peval c 1 x = c 0 := rfl

/-- Settles O31: the running-power loop adds one term after another, and at 0x00 nothing to the first. -/
theorem evaluationIsThePolynomialSum : Obligations.EvaluationIsThePolynomialSum := fun c m x hm =>
  ⟨peval_eq_xorOver hm c x, pevalLoop_zero c (m - 1) 1 (c 0), peval_one_coefficient c x⟩

theorem peval_at_one {m : Nat} (hm : 1 ≤ m) (c : Nat → Byte) : peval c m 0x01#8 = xorOver m c := by
  rw [peval_eq_xorOver hm, polyTerm_one]

/-! ## The bytes as a field of the library (42_gf_scalar R104) -/

/-- The bytes with exclusive-or and `gmul`; a byte is its own negative. -/
abbrev byteField : Field Byte :=
  @Field.ofMinimalAxioms Byte ⟨(· ^^^ ·)⟩ ⟨gmul⟩ ⟨id⟩ ⟨ginv⟩ ⟨0x00#8⟩ ⟨0x01#8⟩
    BitVec.xor_assoc (fun _ => BitVec.zero_xor) (fun _ => BitVec.xor_self) gmul_assoc gmul_comm one_gmul
    (fun _ => gmul_ginv) rfl gmul_xor ⟨0x00#8, 0x01#8, by decide⟩

/-- `e` reads bytes as elements of the field `K`, exclusive-or as addition and `gmul` as multiplication. Speaking of
some such `K`, and not of `byteField` itself, keeps its operations apart from the arithmetic of `BitVec`. -/
structure FieldReading (K : Type) [Field K] (e : Byte → K) : Prop where
  injective : Function.Injective e
  map_zero : e 0x00#8 = 0
  map_one : e 0x01#8 = 1
  map_xor : ∀ a b, e (a ^^^ b) = e a + e b
  map_gmul : ∀ a b, e (gmul a b) = e a * e b

theorem exists_fieldReading : ∃ (K : Type) (_ : Field K) (e : Byte → K), FieldReading K e :=
  ⟨Byte, byteField, id,
    @FieldReading.mk Byte byteField id Function.injective_id rfl rfl (fun _ _ => rfl) (fun _ _ => rfl)⟩

section
variable {K : Type} [Field K] {e : Byte → K} (he : FieldReading K e)
include he

theorem FieldReading.map_gpow (a : Byte) (n : Nat) : e (gpow a n) = e a ^ n := by
  induction n with
  | zero => rw [gpow_zero, he.map_one, pow_zero]
  | succ n ih => rw [gpow_succ, he.map_gmul, ih, pow_succ]

theorem FieldReading.map_xorOver (n : Nat) (f : Nat → Byte) : e (xorOver n f) = ∑ k ∈ Finset.range n, e (f k) := by
  induction n with
  | zero => exact he.map_zero
  | succ n ih => rw [xorOver_succ, he.map_xor, ih, Finset.sum_range_succ]

theorem FieldReading.map_peval {m : Nat} (hm : 1 ≤ m) (c : Nat → Byte) (x : Byte) :
    e (peval c m x) = ∑ k : Fin m, e (c k) * e x ^ (k : Nat) := by
  rw [peval_eq_xorOver hm, he.map_xorOver, Finset.sum_range]
  simp only [polyTerm, he.map_gmul, he.map_gpow]

end

/-! ## Uniqueness (R126) -/

/-- Settles O33: the differences of the coefficients solve a homogeneous Vandermonde system of distinct points. -/
theorem valuesAtDistinctPointsDetermineThePolynomial : Obligations.ValuesAtDistinctPointsDetermineThePolynomial := by
  intro c c' x m hm hx hval j hj
  obtain ⟨K, _, e, he⟩ := exists_fieldReading
  have hpoints : Function.Injective fun k : Fin m => e (x k) :=
    he.injective.comp (.of_lt_imp_ne fun k l hkl => hx k l hkl l.isLt)
  have hsystem (k : Fin m) : ∑ i : Fin m, (e (c i) - e (c' i)) * e (x k) ^ (i : Nat) = 0 := by
    simp only [sub_mul, Finset.sum_sub_distrib, ← he.map_peval hm, hval k k.isLt, sub_self]
  have hzero := Matrix.eq_zero_of_forall_index_sum_mul_pow_eq_zero hpoints hsystem
  exact he.injective (sub_eq_zero.mp (congrFun hzero ⟨j, hj⟩))

end Sys2Proof.Machine

namespace Sys2Proof.Machine

/-! # EVAL and EVALN (43_polyeval R123, R124)

Each is the outcome of its shape, so what is left is which fault `faultOf` names, and reading VS after the fill. -/

theorem toNat_eq_zero_iff (v : Byte) : v.toNat = 0 ↔ v = 0x00#8 := BitVec.toNat_inj (y := 0x00#8)

/-! ## EVAL -/

theorem exec_eval {s : State} {x : Byte} (h : s.err = 0x00#8) (hm : s.m ≠ 0x00#8) (hx : x ≠ 0x00#8) :
    exec (.eval x) s = .next ((s.setRes (peval s.cs s.m.toNat x)).answered (zext32 (peval s.cs s.m.toNat x))) :=
  exec_of_faultOf_eq_none h ((if_neg hm).trans (if_neg hx))

theorem exec_eval_badParam {s : State} (h : s.err = 0x00#8) (hm : s.m = 0x00#8) (x : Byte) :
    exec (.eval x) s = .next (s.faulted 0x04#8 (encode (.eval x)) (s.npts ++ s.m)) :=
  exec_of_faultOf_eq_some (c := .badParam) h (if_pos hm)

theorem exec_eval_zeroPoint {s : State} (h : s.err = 0x00#8) (hm : s.m ≠ 0x00#8) :
    exec (.eval 0x00#8) s = .next (s.faulted 0x05#8 (encode (.eval 0x00#8)) 0x0000#16) :=
  exec_of_faultOf_eq_some (c := .zeroPoint) (hi := 0x00#8) (lo := 0x00#8) h (if_neg hm)

/-- Settles O34: EVAL completes for M and x nonzero, and takes BAD_PARAM for M = 0 whatever x is. -/
theorem evalWritesTheValueAtThePoint : Obligations.EvalWritesTheValueAtThePoint := by
  refine fun x s => ⟨rfl, exec_eval, fun hr hm => exec_eval_badParam hr hm x, exec_eval_zeroPoint,
    fun hh => exec_halted hh rfl, peval_one_coefficient s.cs x, fun hm => peval_at_one ?_ s.cs⟩
  exact Nat.one_le_iff_ne_zero.mpr ((toNat_eq_zero_iff s.m).not.mpr hm)

/-! ## EVALN -/

theorem firstZeroPoint_eq_some {s : State} {n j : Nat} (hj : j < n) (hz : s.xs j = 0x00#8)
    (hmin : ∀ i, i < j → s.xs i ≠ 0x00#8) : firstZeroPoint s n = some j :=
  List.find?_range_eq_some.mpr ⟨beq_iff_eq.mpr hz, List.mem_range.mpr hj, fun i hi => by simp [hmin i hi]⟩

/-- EVALN checks the counts first, and then the points. -/
theorem faultOf_evaln (s : State) :
    faultOf .evaln s =
      if 1 ≤ s.m.toNat ∧ s.m.toNat ≤ s.npts.toNat then
        (firstZeroPoint s s.npts.toNat).map fun j => (.zeroPoint, indexByte j, indexByte j)
      else some (.badParam, s.npts, s.m) := by
  have hcounts : (s.m = 0x00#8 ∨ s.npts = 0x00#8 ∨ s.npts.toNat < s.m.toNat) ↔
      ¬ (1 ≤ s.m.toNat ∧ s.m.toNat ≤ s.npts.toNat) := by
    rw [← toNat_eq_zero_iff, ← toNat_eq_zero_iff]
    omega
  simp only [faultOf, hcounts, ite_not]

section
variable {s : State} (h : s.err = 0x00#8)
include h

theorem exec_evaln_badParam (hc : ¬ (1 ≤ s.m.toNat ∧ s.m.toNat ≤ s.npts.toNat)) :
    exec .evaln s = .next (s.faulted 0x04#8 (encode .evaln) (s.npts ++ s.m)) :=
  exec_of_faultOf_eq_some (c := .badParam) h ((faultOf_evaln s).trans (if_neg hc))

variable (hc : 1 ≤ s.m.toNat ∧ s.m.toNat ≤ s.npts.toNat)
include hc

theorem exec_evaln_zeroPoint {j : Nat} (hz : firstZeroPoint s s.npts.toNat = some j) :
    exec .evaln s = .next (s.faulted 0x05#8 (encode .evaln) (indexByte j ++ indexByte j)) :=
  exec_of_faultOf_eq_some (c := .zeroPoint) h (by rw [faultOf_evaln, if_pos hc, hz, Option.map_some])

theorem exec_evaln (hz : firstZeroPoint s s.npts.toNat = none) :
    exec .evaln s = .next { s with
      mem := (effect .evaln s).mem, responses := s.responses ++ [⟨0x00#8, 0x00000000#32⟩] } := by
  have hf : faultOf .evaln s = none := by rw [faultOf_evaln, if_pos hc, hz, Option.map_none]
  rw [exec_of_faultOf_eq_none h hf, ← h]
  rfl

end

theorem vs_effect_evaln {s : State} (hwf : Memory.wf s.mem) {j : Nat} (hj : j < s.npts.toNat) :
    (effect .evaln s).vs j = peval s.cs s.m.toNat (s.xs j) := by
  have hlt : s.npts.toNat < 256 := s.npts.isLt
  exact (State.entry_fillBank hwf .vs .vs _ hlt.le (by omega)).trans (if_pos ⟨rfl, hj⟩)

/-- Outside VS[0] to VS[NPTS-1] EVALN stores nothing. -/
theorem read_effect_evaln_of_outside {s : State} (hwf : Memory.wf s.mem) {a : Nat}
    (ha : a < 0x100 ∨ 0x100 + s.npts.toNat ≤ a) : Memory.read (effect .evaln s).mem a = Memory.read s.mem a := by
  by_contra hne
  obtain ⟨hlo, hhi⟩ := storesTo_of_read_effect_ne (i := .evaln) hwf hne
  omega

/-- Settles O35: EVALN fills VS when its counts are in range and no point is zero, and else takes the fault. -/
theorem evalnFillsTheValues : Obligations.EvalnFillsTheValues := by
  refine ⟨rfl, fun s hwf hr hm hmn hx => ?_, fun s hr hc => ?_, fun s j hr hm hmn hj hz hmin => ?_,
    fun s hh => exec_halted hh rfl⟩
  · have hnone := (firstZeroPoint_eq_none_iff s s.npts.toNat).mpr hx
    exact ⟨_, exec_evaln hr ⟨hm, hmn⟩ hnone, rfl, fun _ => vs_effect_evaln hwf,
      fun _ => read_effect_evaln_of_outside hwf⟩
  · exact exec_evaln_badParam hr (by omega)
  · exact exec_evaln_zeroPoint hr ⟨hm, hmn⟩ (firstZeroPoint_eq_some hj hz hmin)

end Sys2Proof.Machine

namespace Sys2Proof.Machine

/-! # The weights and the interpolated value (44_lagrange R130, R131, R136, R138)

Read in a field, the weight of a point is the value at the origin of its Lagrange basis polynomial. What is claimed of
the weights then follows from one fact: a polynomial with at most as many coefficients as there are points is its own
interpolation, so the sum of values times weights is its constant term. -/

/-! ## Field readings of quotients, products and weights -/

section
variable {K : Type} [Field K] {e : Byte → K} (he : FieldReading K e)
include he

theorem FieldReading.map_ne_zero {a : Byte} (ha : a ≠ 0x00#8) : e a ≠ 0 :=
  fun h => ha (he.injective (h.trans he.map_zero.symm))

/-- A byte is its own negative. -/
theorem FieldReading.neg_map (a : Byte) : -e a = e a :=
  neg_eq_of_add_eq_zero_left (by rw [← he.map_xor, BitVec.xor_self, he.map_zero])

/-- The inverse agrees with the library's at 0x00 too, where both are zero (log entry 7). -/
theorem FieldReading.map_ginv (a : Byte) : e (ginv a) = (e a)⁻¹ := by
  by_cases ha : a = 0x00#8
  · have hzero : ginv 0x00#8 = 0x00#8 := by decide
    rw [ha, hzero, he.map_zero, inv_zero]
  · exact eq_inv_of_mul_eq_one_left (by rw [← he.map_gmul, ginv_gmul ha, he.map_one])

theorem FieldReading.map_gdiv (a b : Byte) : e (gdiv a b) = e a / e b := by
  rw [gdiv, he.map_gmul, he.map_ginv, div_eq_mul_inv]

theorem FieldReading.map_prodExcept (n k : Nat) (f : Nat → Byte) :
    e (prodExcept n k f) = ∏ l ∈ (Finset.range n).erase k, e (f l) := by
  rw [← Finset.filter_ne', Finset.prod_filter]
  induction n with
  | zero => exact he.map_one
  | succ n ih =>
    have hsucc : prodExcept (n + 1) k f = if n = k then prodExcept n k f else gmul (prodExcept n k f) (f n) := by
      simp [prodExcept, List.range_succ]
    rw [Finset.prod_range_succ, ← ih, hsucc]
    by_cases hk : n = k
    · simp [hk]
    · simp [hk, he.map_gmul]

theorem FieldReading.map_weight (x : Nat → Byte) (n k : Nat) :
    e (weight x n k) = ∏ l ∈ (Finset.range n).erase k, e (x l) / (e (x l) + e (x k)) := by
  refine (he.map_prodExcept n k _).trans (Finset.prod_congr rfl fun l _ => ?_)
  rw [he.map_gdiv, he.map_xor]

/-- The weight is L_k(0) (R130): in each factor of the basis polynomial the signs do not matter. -/
theorem FieldReading.map_weight_eq_eval_basis (x : Nat → Byte) (n k : Nat) :
    e (weight x n k) = (Lagrange.basis (Finset.range n) (fun l => e (x l)) k).eval 0 := by
  rw [he.map_weight, Lagrange.basis, Polynomial.eval_prod]
  refine Finset.prod_congr rfl fun l _ => ?_
  simp [Lagrange.basisDivisor, sub_eq_add_neg, he.neg_map, div_eq_inv_mul, add_comm]

theorem FieldReading.map_dot (v w : Nat → Byte) (n : Nat) :
    e (dot v w n) = ∑ k ∈ Finset.range n, e (v k) * e (w k) :=
  (he.map_xorOver n _).trans (Finset.sum_congr rfl fun k _ => he.map_gmul (v k) (w k))

end

/-! ## Interpolation at the origin (R138) -/

theorem injOn_range_of_lt_imp_ne {α : Type} {f : Nat → α} {n : Nat} (h : ∀ k l, k < l → l < n → f k ≠ f l) :
    Set.InjOn f (Finset.range n) := by
  intro k hk l hl heq
  rcases Nat.lt_trichotomy k l with hlt | rfl | hlt
  · exact absurd heq (h k l hlt (Finset.mem_range.mp hl))
  · rfl
  · exact absurd heq.symm (h l k hlt (Finset.mem_range.mp hk))

/-- The polynomial with the coefficients c_0 to c_(m-1), read in a field. -/
noncomputable def readPolynomial {K : Type} [Field K] (e : Byte → K) (c : Nat → Byte) (m : Nat) : Polynomial K :=
  ∑ i : Fin m, Polynomial.C (e (c i)) * Polynomial.X ^ (i : Nat)

theorem FieldReading.eval_readPolynomial {K : Type} [Field K] {e : Byte → K} (he : FieldReading K e) {m : Nat}
    (hm : 1 ≤ m) (c : Nat → Byte) (x : Byte) : (readPolynomial e c m).eval (e x) = e (peval c m x) := by
  simp [readPolynomial, Polynomial.eval_finsetSum, he.map_peval hm]

section
variable {x : Nat → Byte} {n : Nat} (hx : ∀ k l, k < l → l < n → x k ≠ x l)
include hx

/-- Values of one polynomial with at most as many coefficients as points, times the weights, sum to its constant
term. -/
theorem dot_weight_eq_constant_term {v c : Nat → Byte} {m : Nat} (hm : 1 ≤ m) (hmn : m ≤ n)
    (hv : ∀ k, k < n → v k = peval c m (x k)) : dot v (weight x n) n = c 0 := by
  obtain ⟨K, _, e, he⟩ := exists_fieldReading
  have hnodes : Set.InjOn (fun l => e (x l)) (Finset.range n) :=
    injOn_range_of_lt_imp_ne fun k l hkl hl => he.injective.ne (hx k l hkl hl)
  have hdegree : (readPolynomial e c m).degree < (Finset.range n).card :=
    (Polynomial.degree_sum_fin_lt _).trans_le (by simpa using hmn)
  have hvalues : ∀ k ∈ Finset.range n, (readPolynomial e c m).eval (e (x k)) = e (v k) := fun k hk => by
    rw [he.eval_readPolynomial hm, hv k (Finset.mem_range.mp hk)]
  have hself := Lagrange.eq_interpolate_of_eval_eq (fun k => e (v k)) hnodes hdegree hvalues
  refine he.injective ?_
  calc e (dot v (weight x n) n)
    _ = (readPolynomial e c m).eval 0 := by
      rw [hself, Lagrange.interpolate_apply, Polynomial.eval_finsetSum, he.map_dot]
      simp [he.map_weight_eq_eval_basis]
    _ = e (peval c m 0x00#8) := by rw [← he.map_zero, he.eval_readPolynomial hm]
    _ = e (c 0) := congrArg e (pevalLoop_zero c (m - 1) 1 (c 0))

theorem dot_weight_of_equal_values (hn : 1 ≤ n) {v : Nat → Byte} {b : Byte} (hv : ∀ k, k < n → v k = b) :
    dot v (weight x n) n = b :=
  dot_weight_eq_constant_term hx (c := fun _ => b) le_rfl hn hv

theorem xorOver_weight (hn : 1 ≤ n) : xorOver n (weight x n) = 0x01#8 := by
  have hone : dot (fun _ => 0x01#8) (weight x n) n = xorOver n (weight x n) :=
    congrArg (xorOver n) (funext fun k => one_gmul (weight x n k))
  exact hone.symm.trans (dot_weight_of_equal_values hx hn fun _ _ => rfl)

/-! ## The weights of a point set (R131, R136) -/

theorem weight_ne_zero (hnz : ∀ k, k < n → x k ≠ 0x00#8) {k : Nat} (hk : k < n) : weight x n k ≠ 0x00#8 := by
  obtain ⟨K, _, e, he⟩ := exists_fieldReading
  intro hzero
  have hprod : e (weight x n k) ≠ 0 := by
    rw [he.map_weight]
    refine Finset.prod_ne_zero_iff.mpr fun l hl => ?_
    obtain ⟨hlk, hl⟩ := Finset.mem_erase.mp hl
    have hne : x l ≠ x k := (injOn_range_of_lt_imp_ne hx).ne hl (Finset.mem_range.mpr hk) hlk
    rw [← he.map_xor]
    exact div_ne_zero (he.map_ne_zero (hnz l (Finset.mem_range.mp hl))) (he.map_ne_zero (by simpa using hne))
  exact hprod (by rw [hzero, he.map_zero])

end

theorem weight_eq_gdiv (x : Nat → Byte) (n k : Nat) :
    weight x n k = gdiv (prodExcept n k x) (prodExcept n k fun l => x l ^^^ x k) := by
  obtain ⟨K, _, e, he⟩ := exists_fieldReading
  refine he.injective ?_
  rw [he.map_weight, he.map_gdiv, he.map_prodExcept, he.map_prodExcept, Finset.prod_div_distrib]
  simp only [he.map_xor]

/-- A permutation takes the indices other than `k` to those other than its image of `k`. -/
theorem weight_permute (x : Nat → Byte) {n : Nat} {p : Nat → Nat} (hp : ∀ k, k < n → p k < n)
    (hinj : Set.InjOn p (Finset.range n)) {k : Nat} (hk : k < n) :
    weight (fun l => x (p l)) n k = weight x n (p k) := by
  obtain ⟨K, _, e, he⟩ := exists_fieldReading
  have hkr : k ∈ Finset.range n := Finset.mem_range.mpr hk
  have hpk : p k ∈ Finset.range n := Finset.mem_range.mpr (hp k hk)
  have hmaps : ∀ l ∈ (Finset.range n).erase k, p l ∈ (Finset.range n).erase (p k) := fun l hl => by
    obtain ⟨hlk, hl⟩ := Finset.mem_erase.mp hl
    exact Finset.mem_erase.mpr ⟨hinj.ne hl hkr hlk, Finset.mem_range.mpr (hp l (Finset.mem_range.mp hl))⟩
  have hinj' : Set.InjOn p ((Finset.range n).erase k) := hinj.mono (Finset.coe_subset.mpr (Finset.erase_subset k _))
  have hsurj := Finset.surjOn_of_injOn_of_card_le p hmaps hinj'
    (by rw [Finset.card_erase_of_mem hpk, Finset.card_erase_of_mem hkr])
  refine he.injective ?_
  rw [he.map_weight, he.map_weight]
  exact Finset.prod_nbij p hmaps hinj' hsurj fun _ _ => rfl

/-- Settles O40: the sum is the interpolation of the constant 0x01, and the rest are laws of products over all points
but one. -/
theorem weightsSumToOneAndFollowThePoints : Obligations.WeightsSumToOneAndFollowThePoints := fun x n hn hnz hx =>
  ⟨xorOver_weight hx hn, fun _ => weight_ne_zero hx hnz, fun k _ => weight_eq_gdiv x n k,
    fun _ hp hne _ hk => weight_permute x hp (injOn_range_of_lt_imp_ne hne) hk⟩

end Sys2Proof.Machine

namespace Sys2Proof.Machine

/-! # The point check (44_lagrange R132)

One lemma per fault, each under what the checks before it have passed. -/

theorem range_eq_append_cons {n k : Nat} (h : k < n) :
    List.range n = List.range k ++ k :: List.range' (k + 1) (n - (k + 1)) := by
  obtain ⟨d, rfl⟩ := Nat.exists_eq_add_of_lt h
  rw [Nat.add_assoc, Nat.add_sub_add_left, Nat.add_sub_cancel, ← List.range'_succ, List.range_eq_range',
    List.range_eq_range', ← List.range'_append_1, Nat.zero_add]

/-- The search finds the pair that comes first, by the smaller index and then by the larger. -/
theorem firstDuplicate_eq_some_of_first {s : State} {n k l : Nat} (hkl : k < l) (hl : l < n) (hx : s.xs k = s.xs l)
    (hfirst : ∀ k' l', k' < l' → l' < n → s.xs k' = s.xs l' → k < k' ∨ (k = k' ∧ l ≤ l')) :
    firstDuplicate s n = some (k, l) := by
  refine List.findSome?_eq_some_iff.mpr ⟨_, k, _, range_eq_append_cons (hkl.trans hl), ?_, fun k' hk' => ?_⟩
  · have hfind : (List.range' (k + 1) (n - (k + 1))).find? (fun l => s.xs k == s.xs l) = some l := by
      refine List.find?_range'_eq_some.mpr ⟨beq_iff_eq.mpr hx, List.mem_range'_1.mpr (by omega), fun j hkj hjl => ?_⟩
      have hne : s.xs k ≠ s.xs j := fun he => by
        have := hfirst k j hkj (hjl.trans hl) he
        omega
      simpa using hne
    rw [hfind, Option.map_some]
  · have hk' := List.mem_range.mp hk'
    refine Option.map_eq_none_iff.mpr (List.find?_eq_none.mpr fun l' hl' he => ?_)
    have hl' := List.mem_range'_1.mp hl'
    have := hfirst k' l' (by omega) (by omega) (beq_iff_eq.mp he)
    omega

theorem pcheck_badParam {s : State} (hn : s.npts = 0x00#8) : pcheck s = some (.badParam, s.npts, s.m) := if_pos hn

section
variable {s : State} (hn : s.npts ≠ 0x00#8)
include hn

theorem pcheck_zeroPoint {k : Nat} (hz : firstZeroPoint s s.npts.toNat = some k) :
    pcheck s = some (.zeroPoint, indexByte k, indexByte k) := by
  rw [pcheck, if_neg hn, hz]

variable (hz : ∀ k, k < s.npts.toNat → s.xs k ≠ 0x00#8)
include hz

theorem pcheck_insufficient (hm : s.npts.toNat < s.m.toNat) : pcheck s = some (.insufficient, s.npts, s.m) := by
  simp only [pcheck, if_neg hn, (firstZeroPoint_eq_none_iff s _).mpr hz, if_pos hm]

theorem pcheck_dupPoint (hm : s.m.toNat ≤ s.npts.toNat) {k l : Nat}
    (hd : firstDuplicate s s.npts.toNat = some (k, l)) : pcheck s = some (.dupPoint, indexByte k, indexByte l) := by
  simp only [pcheck, if_neg hn, (firstZeroPoint_eq_none_iff s _).mpr hz, if_neg (Nat.not_lt_of_le hm), hd]

end

/-- Settles O36: for each fault, the search that names it finds the least index or the first pair. -/
theorem pointCheckReportsTheFirstFault : Obligations.PointCheckReportsTheFirstFault := by
  intro s
  have hpos {k : Nat} (hk : k < s.npts.toNat) : s.npts ≠ 0x00#8 :=
    (toNat_eq_zero_iff s.npts).not.mp (Nat.ne_zero_of_lt hk)
  exact ⟨pcheck_badParam, fun k hk hz hmin => pcheck_zeroPoint (hpos hk) (firstZeroPoint_eq_some hk hz hmin),
    pcheck_insufficient,
    fun k l hkl hl hz hm hx hfirst =>
      pcheck_dupPoint (hpos hl) hz hm (firstDuplicate_eq_some_of_first hkl hl hx hfirst),
    (pcheck_eq_none_iff s).mpr⟩

theorem State.PointsGood.xs_ne {s : State} (hg : s.PointsGood) {k l : Nat} (hkl : k < l) (hl : l < s.npts.toNat) :
    s.xs k ≠ s.xs l := by
  obtain ⟨-, -, -, hne⟩ := hg
  exact hne l hl k hkl

/-- The point check names only the four faults of LPREP and LAGR (60_exceptions R182). -/
theorem mayRaise_of_pcheck {s : State} {c : FaultCode} {hi lo : Byte} (h : pcheck s = some (c, hi, lo)) :
    MayRaise .lagr c := by
  unfold pcheck at h
  split at h
  · cases h
    exact .inl rfl
  split at h
  · cases h
    exact .inr (.inl rfl)
  split at h
  · cases h
    exact .inr (.inr (.inl rfl))
  split at h <;> cases h
  exact .inr (.inr (.inr rfl))

/-- Good points are what sound weights rest on (10_state R30), so a failing check goes with stale weights. -/
theorem wvalid_eq_false_of_pcheck {s : State} (hs : s.WeightsSound) (h : (pcheck s).isSome = true) :
    s.wvalid = false := by
  refine Bool.eq_false_of_not_eq_true fun hw => ?_
  obtain ⟨hgood, -⟩ := hs hw
  simp [(pcheck_eq_none_iff s).mpr hgood] at h

end Sys2Proof.Machine

namespace Sys2Proof.Machine

/-! # LPREP, LDOT and LAGR (44_lagrange R133 to R135, R138)

LPREP and LAGR prepare the weights (`State.prepare`); LDOT and LAGR deliver the interpolated byte. So each command is
the outcome of its shape and the lemmas about the prepared state. -/

/-! ## The prepared state -/

section
variable {s : State} (hwf : Memory.wf s.mem)
include hwf

theorem lw_prepare {k : Nat} (hk : k < s.npts.toNat) : s.prepare.lw k = s.weightOf k := by
  have hlt : s.npts.toNat < 256 := s.npts.isLt
  exact (State.entry_fillBank hwf .lw .lw s.weightOf hlt.le (by omega)).trans (if_pos ⟨rfl, hk⟩)

theorem vs_prepare {k : Nat} (hk : k < s.npts.toNat) : s.prepare.vs k = s.vs k := by
  have hlt : s.npts.toNat < 256 := s.npts.isLt
  exact (State.entry_fillBank hwf .lw .vs s.weightOf hlt.le (by omega)).trans (if_neg (by simp))

/-- Outside LW[0] to LW[NPTS-1] nothing is stored. -/
theorem read_prepare_of_outside {a : Nat} (ha : a < 0x300 ∨ 0x300 + s.npts.toNat ≤ a) :
    Memory.read s.prepare.mem a = Memory.read s.mem a := by
  by_contra hne
  obtain ⟨hlo, hhi⟩ := storesTo_of_read_effect_ne (i := .lprep) hwf hne
  omega

theorem interpolated_prepare : s.prepare.interpolated = dot s.vs s.weightOf s.npts.toNat :=
  dot_congr (fun _ => vs_prepare hwf) (fun _ => lw_prepare hwf)

end

/-! ## The three commands -/

section
variable {s : State} (h : s.err = 0x00#8)
include h

theorem exec_lprep (hg : s.PointsGood) :
    exec .lprep s = .next { s with
      mem := s.prepare.mem, wvalid := true, responses := s.responses ++ [⟨0x00#8, 0x00000000#32⟩] } := by
  rw [exec_of_faultOf_eq_none (i := .lprep) h ((pcheck_eq_none_iff s).mpr hg), ← h]
  rfl

theorem exec_ldot (hw : s.wvalid = true) :
    exec .ldot s = .next ((s.setRes s.interpolated).answered (zext32 s.interpolated)) :=
  exec_of_faultOf_eq_none h (if_pos hw)

theorem exec_ldot_stale (hw : s.wvalid = false) :
    exec .ldot s = .next (s.faulted 0x08#8 (encode .ldot) 0x0000#16) :=
  exec_of_faultOf_eq_some (c := .stale) (hi := 0x00#8) (lo := 0x00#8) h (if_neg (by simp [hw]))

theorem exec_lagr (hg : s.PointsGood) :
    exec .lagr s = .next { s with
      mem := s.prepare.mem, wvalid := true, res := s.prepare.interpolated,
      responses := s.responses ++ [⟨0x00#8, zext32 s.prepare.interpolated⟩] } := by
  rw [exec_of_faultOf_eq_none (i := .lagr) h ((pcheck_eq_none_iff s).mpr hg), ← h]
  rfl

end

/-- Settles O37: LPREP leaves the prepared state, or takes the fault of the point check. -/
theorem lprepWritesTheWeights : Obligations.LprepWritesTheWeights :=
  ⟨rfl, fun _ hwf hr hg => ⟨_, exec_lprep hr hg, rfl, fun _ => lw_prepare hwf, fun _ => read_prepare_of_outside hwf⟩,
    fun _ _ _ _ hr hp => exec_of_faultOf_eq_some hr hp, fun _ => wvalid_eq_false_of_pcheck,
    fun _ hh => exec_halted hh rfl⟩

/-- With sound weights LDOT sums the values times the weights of the points. -/
theorem interpolated_of_weightsSound {s : State} (hs : s.WeightsSound) (hw : s.wvalid = true) :
    s.interpolated = dot s.vs s.weightOf s.npts.toNat := by
  obtain ⟨-, hlw⟩ := hs hw
  exact dot_congr (fun _ _ => rfl) hlw

/-- Settles O38: LDOT delivers the interpolated byte, which for equal values is that value. -/
theorem ldotWritesTheInterpolatedByte : Obligations.LdotWritesTheInterpolatedByte := by
  refine ⟨rfl, fun s hr hw => ⟨s.interpolated, rfl, exec_ldot hr hw⟩, fun s => exec_ldot_stale,
    fun s v hr hw hs hv => ⟨_, exec_ldot hr hw, ?_⟩, fun s hh => exec_halted hh rfl⟩
  obtain ⟨hg, -⟩ := hs hw
  exact (interpolated_of_weightsSound hs hw).trans (dot_weight_of_equal_values (fun _ _ => hg.xs_ne) hg.1 hv)

/-- Settles O39: LAGR leaves the prepared state with RES, and LDOT interpolates from what LPREP leaves. -/
theorem lagrIsLprepThenLdot : Obligations.LagrIsLprepThenLdot := by
  refine ⟨rfl, fun s hwf hr hg => ?_, fun s c hi lo hr hp => ⟨?_, exec_of_faultOf_eq_some hr hp⟩,
    fun s hh => exec_halted hh rfl⟩
  · refine ⟨_, exec_lagr hr hg, rfl, interpolated_prepare hwf, fun _ => lw_prepare hwf,
      fun _ => read_prepare_of_outside hwf, _, _, _, exec_lprep hr hg, exec_ldot hr rfl, rfl, rfl, ?_⟩
    rw [← hr]
    rfl
  · rintro rfl
    simpa [MayRaise] using mayRaise_of_pcheck hp

/-! ## Recovering the constant term (R138) -/

/-- LAGR gives the constant term of a polynomial from its values at M or more good points. -/
theorem exec_lagr_constant_term {s : State} {c : Nat → Byte} {m : Nat} (hwf : Memory.wf s.mem) (hr : s.err = 0x00#8)
    (hg : s.PointsGood) (hm : 1 ≤ m) (hmn : m ≤ s.npts.toNat)
    (hv : ∀ k, k < s.npts.toNat → s.vs k = peval c m (s.xs k)) :
    ∃ u, exec .lagr s = .next u ∧ u.err = 0x00#8 ∧ u.res = c 0 :=
  ⟨_, exec_lagr hr hg, hr, (interpolated_prepare hwf).trans
    (dot_weight_eq_constant_term (fun _ _ => hg.xs_ne) hm hmn hv)⟩

theorem xs_effect_evaln {s : State} (hwf : Memory.wf s.mem) {j : Nat} (hj : j < 256) :
    (effect .evaln s).xs j = s.xs j :=
  (State.entry_fillBank hwf .vs .xs _ s.npts.isLt.le hj).trans (if_neg (by simp))

theorem faultOf_eq_none_of_outcome_err {i : Instr} {s : State} (hr : s.err = 0x00#8) (h : (outcome i s).err = 0x00#8) :
    faultOf i s = none := by
  cases hf : faultOf i s with
  | none => rfl
  | some f =>
    rw [outcome_fault hr hf] at h
    exact absurd h (faultCode_ne_zero f.1)

/-- EVALN completes only when its counts are in range and no point in use is zero. -/
theorem counts_and_points_of_faultOf_evaln {s : State} (hf : faultOf .evaln s = none) :
    (1 ≤ s.m.toNat ∧ s.m.toNat ≤ s.npts.toNat) ∧ firstZeroPoint s s.npts.toNat = none := by
  rw [faultOf_evaln] at hf
  split at hf
  · exact ⟨‹_›, Option.map_eq_none_iff.mp hf⟩
  · cases hf

/-- EVALN leaves the values of one polynomial in VS and keeps the points, so LAGR gives back its constant term. -/
theorem exec_lagr_after_evaln {s t : State} (hwf : Memory.wf s.mem) (hr : s.err = 0x00#8)
    (ht : exec .evaln s = .next t) (herr : t.err = 0x00#8)
    (hx : ∀ k l, k < l → l < s.npts.toNat → s.xs k ≠ s.xs l) :
    ∃ u, exec .lagr t = .next u ∧ u.err = 0x00#8 ∧ u.res = s.cs 0 := by
  have hf : faultOf .evaln s = none := by
    rw [exec_eq] at ht
    cases ht
    exact faultOf_eq_none_of_outcome_err hr herr
  obtain ⟨⟨hm, hmn⟩, hz⟩ := counts_and_points_of_faultOf_evaln hf
  have hgood : s.PointsGood :=
    ⟨hm.trans hmn, hmn, (firstZeroPoint_eq_none_iff s _).mp hz, fun l hl k hkl => hx k l hkl hl⟩
  rw [exec_evaln hr ⟨hm, hmn⟩ hz] at ht
  cases ht
  refine exec_lagr_constant_term (wf_effect hwf .evaln) hr
    (pointsGood_congr (fun _ => xs_effect_evaln hwf) rfl rfl hgood) hm hmn fun k hk => ?_
  have hxk := xs_effect_evaln hwf (hk.trans s.npts.isLt)
  exact (vs_effect_evaln hwf hk).trans (congrArg (peval s.cs s.m.toNat) hxk.symm)

/-- One point and its value, too few for a polynomial with two coefficients. -/
def oneShare : State :=
  { State.reset with npts := 0x01#8, m := 0x01#8, mem := [(0x000, 0x01#8), (0x100, 0x01#8)] }

/-- Settles O41: both forms are the interpolation of a polynomial with at most NPTS coefficients. For the last clause,
the polynomial x has the value of `oneShare` at its point, and another constant term than the byte LAGR gives. -/
theorem interpolationRecoversTheConstantTerm : Obligations.InterpolationRecoversTheConstantTerm :=
  ⟨fun _ _ => exec_lagr_after_evaln, fun _ _ _ => exec_lagr_constant_term,
    oneShare, outcome .lagr oneShare, indexByte, 2, by decide, rfl, by decide, by decide, by decide,
    exec_eq .lagr oneShare, rfl, by decide⟩

end Sys2Proof.Machine

namespace Sys2Proof.Machine

/-! # Share records and hex transport (45_host_protocol R151, R176)

The first 20 bytes of a byte string are its header, so what is true of a header is true of every byte string that
begins with it. -/

theorem length_headerBytes (h : Header) : (headerBytes h).length = headerSize := by simp [headerBytes, headerSize]

theorem drop_identifier_headerBytes_append (h : Header) (tail : List Byte) :
    (headerBytes h ++ tail).drop 16 =
      h.hashId :: h.threshold :: h.secretLen.extractLsb' 8 8 :: h.secretLen.extractLsb' 0 8 :: tail := by
  simp [headerBytes]

theorem parseHeader_headerBytes_append (h : Header) (tail : List Byte) :
    parseHeader (headerBytes h ++ tail) = some h := by
  have hid : (headerBytes h ++ tail).take 16 = h.identifier.toList := by simp [headerBytes]
  have hlen : h.secretLen.extractLsb' 8 8 ++ h.secretLen.extractLsb' 0 8 = h.secretLen :=
    BitVec.extractLsb'_append_extractLsb'
  have hvector : Vector.mk h.identifier.toList.toArray (by simp) = h.identifier := rfl
  simp [parseHeader, hid, drop_identifier_headerBytes_append, hlen, hvector]

/-- A byte string has the header whose 20 bytes it begins with, and no other. -/
theorem parseHeader_eq_some_iff {bytes : List Byte} {h : Header} :
    parseHeader bytes = some h ↔ bytes.take headerSize = headerBytes h := by
  constructor
  · intro hp
    unfold parseHeader at hp
    split at hp
    case isFalse => cases hp
    case isTrue =>
      split at hp
      case h_2 => cases hp
      case h_1 hashId threshold hi lo tail hrest =>
        cases hp
        have htake : bytes.take headerSize = bytes.take 16 ++ (bytes.drop 16).take 4 := List.take_add (j := 4)
        have hhi : (hi ++ lo).extractLsb' 8 8 = hi := BitVec.extractLsb'_append_eq_left
        have hlo : (hi ++ lo).extractLsb' 0 8 = lo := BitVec.extractLsb'_append_eq_right
        simp [htake, hrest, headerBytes, hhi, hlo]
  · intro ht
    rw [← List.take_append_drop headerSize bytes, ht]
    exact parseHeader_headerBytes_append h _

theorem headerSize_le_length_of_parseHeader {bytes : List Byte} {h : Header} (hp : parseHeader bytes = some h) :
    headerSize ≤ bytes.length := by
  have hlen := congrArg List.length (parseHeader_eq_some_iff.mp hp)
  rw [length_headerBytes, List.length_take] at hlen
  omega

theorem drop_headerSize_recordBytes (r : ShareRecord) : (recordBytes r).drop headerSize = r.shareId :: r.value :=
  List.drop_left' (length_headerBytes r.header)

theorem length_recordBytes (r : ShareRecord) : (recordBytes r).length = 21 + r.value.length := by
  rw [recordBytes, List.length_append, length_headerBytes, List.length_cons, headerSize]
  omega

theorem parseRecord_recordBytes (r : ShareRecord) : parseRecord (recordBytes r) = some r := by
  have hheader : parseHeader (recordBytes r) = some r.header := parseHeader_headerBytes_append _ _
  simp only [parseRecord, hheader, drop_headerSize_recordBytes]

/-- Settles O56: the fields after the identifier are the entries of the list that begins at offset 16. -/
theorem shareRecordLayoutReadsBack : Obligations.ShareRecordLayoutReadsBack := by
  intro r
  have hfield (k : Nat) : (recordBytes r)[16 + k]? =
      (r.header.hashId :: r.header.threshold :: r.header.secretLen.extractLsb' 8 8 ::
        r.header.secretLen.extractLsb' 0 8 :: r.shareId :: r.value)[k]? := by
    rw [← List.getElem?_drop, recordBytes, drop_identifier_headerBytes_append]
  have hvalue : (recordBytes r).drop (headerSize + 1) = r.value := by
    rw [← List.drop_drop, drop_headerSize_recordBytes, List.drop_one, List.tail_cons]
  exact ⟨parseRecord_recordBytes r, length_recordBytes r, hfield 0, hfield 1, hfield 2, hfield 3, hfield 4, hvalue⟩

/-! ## Hex transport (45_host_protocol R176) -/

/-- A character, or the upper-case letter of a lower-case one. -/
def upperHex (c : Char) : Char := if 97 ≤ c.toNat then Char.ofNat (c.toNat - 32) else c

theorem hexValue_hexDigit : ∀ n < 16, hexValue (hexDigit n) = some n := by decide

theorem hexValue_upperHex_hexDigit : ∀ n < 16, hexValue (upperHex (hexDigit n)) = some n := by decide

/-- Hex text reads back in any spelling of the sixteen digits that keeps their values. -/
theorem fromHex_map_toHex {spell : Char → Char} (hspell : ∀ n < 16, hexValue (spell (hexDigit n)) = some n)
    (bytes : List Byte) : fromHex ((toHex bytes).map spell) = some bytes := by
  induction bytes with
  | nil => rfl
  | cons b bytes ih =>
    have hb := b.isLt
    have htext : (toHex (b :: bytes)).map spell =
        spell (hexDigit (b.toNat / 16)) :: spell (hexDigit (b.toNat % 16)) :: (toHex bytes).map spell := rfl
    have hhi := hspell (b.toNat / 16) (by omega)
    have hlo := hspell (b.toNat % 16) (by omega)
    simp only [htext, fromHex, hhi, hlo, ih, Nat.div_add_mod, BitVec.ofNat_toNat, BitVec.setWidth_eq]

/-- Settles O57: neither case changes the value of a digit. -/
theorem hexTransportReadsBack : Obligations.HexTransportReadsBack := fun bytes =>
  ⟨by simpa using fromHex_map_toHex (spell := id) hexValue_hexDigit bytes,
    fromHex_map_toHex hexValue_upperHex_hexDigit bytes⟩

/-! # The checks of a call before it uses the block (45_host_protocol R155, R163) -/

/-! ## Split -/

/-- The precondition that fails first, when one of the counts is bad (45_host_protocol R155). -/
theorem splitPrecondition_of_bad_counts {m n : Byte} (h : m = 0x00#8 ∨ n = 0x00#8 ∨ n.toNat < m.toNat)
    (secret : List Byte) : splitPrecondition m n secret =
      some (if m = 0x00#8 then .thresholdZero else if n = 0x00#8 then .shareCountZero else .thresholdAboveCount) := by
  unfold splitPrecondition
  by_cases hm : m = 0x00#8
  · simp only [if_pos hm]
  by_cases hn : n = 0x00#8
  · simp only [if_neg hm, if_pos hn]
  · simp only [if_neg hm, if_neg hn, if_pos ((h.resolve_left hm).resolve_left hn)]

theorem hostSplit_of_splitPrecondition {m n : Byte} {secret : List Byte} {e : HostError}
    (h : splitPrecondition m n secret = some e) (identifier : Vector Byte 16) (draws : List Byte) (s : State) :
    hostSplit m n secret identifier draws s = ⟨.error e, closeCall s, draws⟩ := by
  simp only [hostSplit, h]

/-- Settles O58: a split whose preconditions fail only closes the call. -/
theorem splitChecksBeforeItDraws : Obligations.SplitChecksBeforeItDraws := by
  intro m n secret identifier draws s h
  rw [hostSplit_of_splitPrecondition (splitPrecondition_of_bad_counts h secret)]
  refine ⟨_, rfl, rfl, ?_, rfl⟩
  split
  · rfl
  · split <;> rfl

/-! ## Reconstruct -/

theorem parseHeader_congr {b c : List Byte} (h : b.take headerSize = c.take headerSize) :
    parseHeader b = parseHeader c := by
  ext1 x
  rw [parseHeader_eq_some_iff, parseHeader_eq_some_iff, h]

/-- Equal sizes and headers and nonzero share ids, with too few shares: check 5 is the first that fails. -/
theorem validateShares_insufficient {first : List Byte} {rest : List (List Byte)} {h : Header}
    (hp : parseHeader first = some h)
    (hshares : ∀ b ∈ first :: rest, b.length = first.length ∧ b.take headerSize = first.take headerSize ∧
      b[headerSize]? ≠ some 0x00#8)
    (hfew : (first :: rest).length < h.threshold.toNat) :
    validateShares (first :: rest) = .error .insufficientShares := by
  have hlong := headerSize_le_length_of_parseHeader hp
  have hempty : (first :: rest).any List.isEmpty = false := by
    refine List.any_eq_false.mpr fun b hb he => ?_
    obtain ⟨hlen, -⟩ := hshares b hb
    rw [← hlen, List.isEmpty_iff.mp he] at hlong
    cases hlong
  have hsize : (first :: rest).any (fun b => b.length != first.length) = false :=
    List.any_eq_false.mpr fun b hb => by
      obtain ⟨hlen, -⟩ := hshares b hb
      simp [hlen]
  have hzero : (first :: rest).any shareIdIsZero = false :=
    List.any_eq_false.mpr fun b hb => by
      obtain ⟨-, -, hid⟩ := hshares b hb
      simp [shareIdIsZero, hid]
  have hheader : (first :: rest).any (fun b => b.take headerSize != first.take headerSize) = false :=
    List.any_eq_false.mpr fun b hb => by
      obtain ⟨-, hsame, -⟩ := hshares b hb
      simp [hsame]
  simp only [validateShares, hempty, hsize, hp, hzero, hheader, if_pos hfew]
  rfl

theorem ite_error_eq_ok_iff {ε α : Type} {p : Prop} [Decidable p] {e : ε} {x : Except ε α} {v : α} :
    (if p then .error e else x) = .ok v ↔ ¬ p ∧ x = .ok v := by
  by_cases hp : p <;> simp [hp]

/-- Shares that pass the host's checks have one header, and are as many as it declares (45_host_protocol R163). -/
theorem header_of_validateShares {shares : List (List Byte)} {h : Header} {records : List ShareRecord}
    (hv : validateShares shares = .ok (h, records)) :
    (∀ b ∈ shares, parseHeader b = some h) ∧ h.threshold.toNat ≤ shares.length := by
  unfold validateShares at hv
  split at hv
  case h_1 => cases hv
  case h_2 first rest =>
    obtain ⟨-, hv⟩ := ite_error_eq_ok_iff.mp hv
    obtain ⟨-, hv⟩ := ite_error_eq_ok_iff.mp hv
    split at hv
    case h_1 => cases hv
    case h_2 declared hp =>
      obtain ⟨-, hv⟩ := ite_error_eq_ok_iff.mp hv
      obtain ⟨hsame, hv⟩ := ite_error_eq_ok_iff.mp hv
      obtain ⟨hcount, hv⟩ := ite_error_eq_ok_iff.mp hv
      have hdeclared : declared = h := by
        split at hv
        case h_1 => cases hv
        case h_2 => cases hv
        case h_3 =>
          obtain ⟨-, hv⟩ := ite_error_eq_ok_iff.mp hv
          cases hv
          rfl
      subst hdeclared
      refine ⟨fun b hb => ?_, Nat.le_of_not_lt hcount⟩
      have hb := List.any_eq_false.mp (Bool.eq_false_iff.mpr hsame) b hb
      rw [parseHeader_congr (by simpa using hb), hp]

theorem hostReconstruct_of_validateShares_error {shares : List (List Byte)} {e : HostError}
    (h : validateShares shares = .error e) (s : State) : hostReconstruct shares s = (.error e, closeCall s) := by
  simp only [hostReconstruct, h]

/-- Settles O59: the checks fail by name in the first form, and whatever they accept has shares enough in the
second. -/
theorem tooFewSharesGiveNoSecret : Obligations.TooFewSharesGiveNoSecret := by
  refine ⟨fun first rest h s hp hshares hfew => ?_, rfl, fun shares b h s hb hp hfew => ?_⟩
  · rw [hostReconstruct_of_validateShares_error (validateShares_insufficient hp hshares hfew)]
  · cases hv : validateShares shares with
    | error e => exact ⟨e, by rw [hostReconstruct_of_validateShares_error hv]⟩
    | ok valid =>
      obtain ⟨hheader, hcount⟩ := header_of_validateShares hv
      cases hp.symm.trans (hheader b hb)
      exact absurd hfew hcount.not_gt

/-! # The block during a call (45_host_protocol R170)

A command takes its own word from the port and nothing else, so no call touches the moves still pending. -/

/-! ## One command -/

theorem step_of_command {s : State} {w : Word} {rest : List HostMove} (hs : s.pending = .command w :: rest) :
    ∃ t, step s = .next t ∧ t.pending = rest := by
  obtain ⟨⟨t, r, ht, hp, -⟩, -⟩ := everyWordHasOneOutcomeAndOneResponse s w rest hs
  exact ⟨t, ht, hp⟩

/-- The block after one command is what its step leaves. -/
theorem transact_state {i : Instr} {s t : State}
    (h : step (s.withPending (.command (encode i) :: s.pending)) = .next t) : (transact i s).2 = t := by
  simp only [transact, h]
  split <;> rfl

theorem transact_pending (i : Instr) (s : State) : (transact i s).2.pending = s.pending := by
  obtain ⟨t, ht, hp⟩ := step_of_command (s.withPending_pending (.command (encode i) :: s.pending))
  rw [transact_state ht, hp]

/-! ## What a call leaves of the pending moves -/

theorem send_pending (failure : Byte → HostError) (commands : List Instr) (s : State) :
    (send failure commands s).2.pending = s.pending := by
  induction commands generalizing s with
  | nil => rfl
  | cons i commands ih =>
    have hi := transact_pending i s
    unfold send
    generalize transact i s = answered at hi ⊢
    obtain ⟨e | r, t⟩ := answered
    · exact hi
    · have hrest := (ih t).trans hi
      dsimp only
      split
      · generalize send failure commands t = sent at hrest ⊢
        obtain ⟨e | ds, u⟩ := sent <;> exact hrest
      · exact hi

theorem splitLoop_pending (m n : Byte) (bytes draws : List Byte) (s : State) :
    (splitLoop m n bytes draws s).block.pending = s.pending := by
  induction bytes generalizing draws s with
  | nil => rfl
  | cons b bytes ih =>
    have hb := send_pending splitFailure (splitByteCommands n b (draws.take (m.toNat - 1))) s
    unfold splitLoop
    split
    · rfl
    · generalize send splitFailure _ s = sent at hb ⊢
      obtain ⟨e | ds, t⟩ := sent
      · exact hb
      · have hrest := (ih (draws.drop (m.toNat - 1)) t).trans hb
        dsimp only
        generalize splitLoop m n bytes _ t = looped at hrest ⊢
        obtain ⟨e | values, u, left⟩ := looped <;> exact hrest

theorem reconstructLoop_pending (columns : List (List Byte)) (s : State) :
    (reconstructLoop columns s).2.pending = s.pending := by
  induction columns generalizing s with
  | nil => rfl
  | cons values columns ih =>
    have hb := send_pending reconstructFailure (reconstructByteCommands values) s
    unfold reconstructLoop
    generalize send reconstructFailure _ s = sent at hb ⊢
    obtain ⟨e | ds, t⟩ := sent
    · exact hb
    · have hrest := (ih t).trans hb
      dsimp only
      generalize reconstructLoop columns t = looped at hrest ⊢
      obtain ⟨e | bytes, u⟩ := looped <;> exact hrest

theorem reconstructOnBlock_pending (h : Header) (records : List ShareRecord) (s : State) :
    (reconstructOnBlock h records s).2.pending = s.pending := by
  have hs := send_pending reconstructFailure (reconstructSetup h.threshold (records.map ShareRecord.shareId)) s
  unfold reconstructOnBlock
  generalize send reconstructFailure _ s = sent at hs ⊢
  obtain ⟨e | ds, t⟩ := sent
  · exact hs
  · exact (reconstructLoop_pending _ t).trans hs

/-! ## The closing CLR (45_host_protocol R170) -/

/-- `u` is the reset state but for IE and the responses, with the moves still pending that `s` had. -/
def WipedFrom (s u : State) : Prop :=
  u = { State.reset with ie := u.ie, pending := s.pending, responses := u.responses }

theorem closeCall_eq (s : State) : closeCall s = s.wipe.answer ⟨0x00#8, 0x00000000#32⟩ := by
  have hd : decode (encode .clr) = .ok .clr := decodeOfEncodeIsTheCommand .clr rfl
  exact transact_state ((step_of_decode_ok rfl hd).trans (exec_clr _))

theorem wipedFrom_closeCall {s t : State} (h : t.pending = s.pending) : WipedFrom s (closeCall t) := by
  rw [WipedFrom, closeCall_eq, State.wipe_eq, ← h]
  rfl

theorem wipedFrom_hostSplit (m n : Byte) (secret : List Byte) (identifier : Vector Byte 16) (draws : List Byte)
    (s : State) : WipedFrom s (hostSplit m n secret identifier draws s).block := by
  unfold hostSplit
  split
  · exact wipedFrom_closeCall rfl
  · have hs := send_pending splitFailure (splitSetup m n) s
    generalize send splitFailure _ s = sent at hs ⊢
    obtain ⟨e | ds, t⟩ := sent
    · exact wipedFrom_closeCall hs
    · have ht := (splitLoop_pending m n (secret ++ (Config.hashB secret).toList) draws t).trans hs
      dsimp only
      generalize splitLoop m n _ draws t = looped at ht ⊢
      obtain ⟨e | values, u, left⟩ := looped <;> exact wipedFrom_closeCall ht

theorem wipedFrom_hostReconstruct (shares : List (List Byte)) (s : State) :
    WipedFrom s (hostReconstruct shares s).2 := by
  unfold hostReconstruct
  split
  case h_1 => exact wipedFrom_closeCall rfl
  case h_2 h records _ =>
    have hs := reconstructOnBlock_pending h records s
    generalize reconstructOnBlock h records s = run at hs ⊢
    obtain ⟨e | bytes, t⟩ := run <;> exact wipedFrom_closeCall hs

/-- Settles O60: every path of a call ends in a CLR, on a block that has only answered commands of the call. -/
theorem hostCallsEndWithTheBlockWiped : Obligations.HostCallsEndWithTheBlockWiped :=
  ⟨fun m n secret identifier draws s => ⟨_, wipedFrom_hostSplit m n secret identifier draws s⟩,
    fun shares s => ⟨_, wipedFrom_hostReconstruct shares s⟩⟩

end Sys2Proof.Machine

namespace Sys2Proof.Machine

/-! # Faults, the halted state and the interrupt (60_exceptions R182 to R193)

A running command that leaves ERR set has taken the fault `faultOf` names. In the halted state every command but CLR
only answers, and what it answers is not read from the arrays. -/

/-! ## The steps that execute no command -/

theorem step_of_nothing_pending {s : State} (hs : s.pending = []) : step s = .next s := by
  simp only [step, hs]

theorem step_of_reset {s : State} {rest : List HostMove} (hs : s.pending = .reset :: rest) :
    step s = .next (pulseReset (s.withPending rest)) := by
  simp only [step, hs]

/-- Settles O12: the model's step with an empty port is the idle step. -/
theorem blockWaitsWithNothingPresented : Obligations.BlockWaitsWithNothingPresented := fun _ =>
  step_of_nothing_pending

/-! ## Taking a fault (60_exceptions R182, R184) -/

/-- A running command that leaves ERR set has taken its fault. -/
theorem faultOf_of_outcome_err {i : Instr} {s : State} (hr : s.err = 0x00#8) (h : (outcome i s).err ≠ 0x00#8) :
    ∃ c hi lo, faultOf i s = some (c, hi, lo) ∧ outcome i s = s.faulted (faultCode c) (encode i) (hi ++ lo) := by
  rcases outcome_cases i s with ⟨hh, -⟩ | ⟨c, hi, lo, -, hf, ho⟩ | ⟨hx, -, ho⟩
  · exact absurd hr hh
  · exact ⟨c, hi, lo, hf, ho⟩
  · rw [ho, completed_err] at h
    exact absurd hr (effect_eq_self_of_err hx h ▸ h)

/-- Settles O45: a word that decodes takes the fault of its command, whose word it is; any other takes ILLEGAL_CMD. -/
theorem faultsChangeOnlyTheRecord : Obligations.FaultsChangeOnlyTheRecord := by
  intro s t w rest hs hr ht hne
  cases hd : decode w with
  | ok i =>
    obtain ⟨hw, -⟩ := decode_eq_ok_iff_encode_eq.mp hd
    rw [step_of_decode_ok hs hd, exec_eq] at ht
    cases ht
    obtain ⟨c, hi, lo, -, ho⟩ := faultOf_of_outcome_err (s := s.withPending rest) hr hne
    exact ⟨c, hi, lo, hw ▸ ho⟩
  | error e =>
    rw [step_of_decode_error hs hd, if_pos hr] at ht
    cases ht
    exact ⟨.illegalCmd, 0x00#8, 0x00#8, rfl⟩

/-! ## Which command raises which fault (60_exceptions R182) -/

theorem faultCode_injective : Function.Injective faultCode :=
  Function.LeftInverse.injective (g := fun code => FaultCode.ofNat (code.toNat - 1)) fun c => by cases c <;> rfl

/-- The unassigned CSR numbers, whose commands have no word, are the one way to ILLEGAL_CMD, so a well-formed command
takes a fault of its own row. -/
theorem mayRaise_of_faultOf {i : Instr} {s : State} {c : FaultCode} {hi lo : Byte} (hwf : WellFormed i = true)
    (hf : faultOf i s = some (c, hi, lo)) : MayRaise i c := by
  cases i with
  | nop | clr | ld | ldseq | gfadd | gfmul => cases hf
  | lprep | lagr => exact mayRaise_of_pcheck hf
  | csrr csr =>
    have hcsr : CsrAssigned csr := of_decide_eq_true hwf
    simp [faultOf, hcsr] at hf
  | csrw csr val =>
    have hcsr : csr.toNat < 8 := of_decide_eq_true hwf
    simp only [faultOf] at hf
    interval_cases csr.toNat <;> cases hf <;> rfl
  | st | gfdiv | gfinv | ldot =>
    simp only [faultOf] at hf
    split at hf <;> cases hf
    rfl
  | eval =>
    simp only [faultOf] at hf
    split at hf
    · cases hf
      exact .inl rfl
    · split at hf <;> cases hf
      exact .inr rfl
  | evaln =>
    rw [faultOf_evaln] at hf
    split at hf
    · obtain ⟨j, -, he⟩ := Option.map_eq_some_iff.mp hf
      cases he
      exact .inr rfl
    · cases hf
      exact .inl rfl

theorem raisesSomewhere_of_faultOf {i : Instr} {s : State} {c : FaultCode} {hi lo : Byte} (hr : s.err = 0x00#8)
    (hf : faultOf i s = some (c, hi, lo)) : RaisesSomewhere i c :=
  ⟨s, _, hr, exec_of_faultOf_eq_some hr hf, rfl⟩

/-- One point, which is zero. -/
def oneZeroPoint : State := { State.reset with npts := 0x01#8, m := 0x01#8 }

/-- Two equal points. -/
def twoEqualPoints : State :=
  { State.reset with npts := 0x02#8, m := 0x01#8, mem := [(0x000, 0x01#8), (0x001, 0x01#8)] }

/-- Settles O46: the fault taken is the one `faultOf` names, and for each mark it names that fault in the reset state
or in a state with one or two points. -/
theorem faultsComeFromTheirCommands : Obligations.FaultsComeFromTheirCommands := by
  refine ⟨fun i s t c hwf hr ht he => ?_, ?_⟩
  · rw [exec_eq] at ht
    cases ht
    obtain ⟨c', hi, lo, hf, ho⟩ := faultOf_of_outcome_err hr (he ▸ faultCode_ne_zero c)
    rw [ho] at he
    exact faultCode_injective he ▸ mayRaise_of_faultOf hwf hf
  · have hreset {i : Instr} {c : FaultCode} {hi lo : Byte} := raisesSomewhere_of_faultOf (i := i) (s := State.reset)
      (c := c) (hi := hi) (lo := lo) rfl
    have hzero {i : Instr} := raisesSomewhere_of_faultOf (i := i) (s := oneZeroPoint)
      (c := .zeroPoint) (hi := 0x00#8) (lo := 0x00#8) rfl
    have hfew {i : Instr} := raisesSomewhere_of_faultOf (i := i) (s := oneShare.setM 0x02#8)
      (c := .insufficient) (hi := 0x01#8) (lo := 0x02#8) rfl
    have hequal {i : Instr} := raisesSomewhere_of_faultOf (i := i) (s := twoEqualPoints)
      (c := .dupPoint) (hi := 0x00#8) (lo := 0x01#8) rfl
    exact ⟨hreset rfl, hreset rfl, hreset rfl, hreset rfl, hreset rfl, hzero rfl, hreset rfl, hzero rfl, hreset rfl,
      hzero rfl, hfew rfl, hequal rfl, hreset rfl, hzero rfl, hfew rfl, hequal rfl, hreset rfl⟩

/-! ## The halted state (60_exceptions R187 to R189) -/

/-- In the halted state a command but CLR changes the response port only. -/
theorem outcome_frame_of_halted {i : Instr} {s : State} (hh : s.err ≠ 0x00#8) (hc : i ≠ .clr) :
    outcome i s = { s with responses := (outcome i s).responses } := by
  rcases outcome_cases i s with ⟨-, -, ho⟩ | ⟨c, hi, lo, hr, -⟩ | ⟨hx, -, ho⟩
  · rw [ho]
    rfl
  · exact absurd hr hh
  · rw [ho, completed, effect_of_executesHalted (hx.resolve_left hh), if_neg hc]
    rfl

/-- In the halted state no command reads the arrays. -/
theorem outcome_halted_withMem {s : State} (hh : s.err ≠ 0x00#8) (i : Instr) (mem : Memory) :
    outcome i { s with mem := mem } = { outcome i s with mem := (outcome i { s with mem := mem }).mem } := by
  cases hi : executesHalted i with
  | false =>
    rw [outcome_refused hh hi, outcome_refused (s := { s with mem := mem }) hh hi]
    rfl
  | true =>
    rw [outcome_completes (.inr hi) (faultOf_of_executesHalted hi _),
      outcome_completes (.inr hi) (faultOf_of_executesHalted hi _)]
    cases i with
    | nop | clr | csrr => rfl
    | _ => cases hi

/-- Settles O48: such a command does not execute while halted, and an illegal word is refused like it. -/
theorem haltedBlockRefusesOtherCommands : Obligations.HaltedBlockRefusesOtherCommands := by
  refine fun s hh => ⟨fun i hi => exec_halted hh ?_, fun w rest hs hn => ?_⟩
  · rwa [← executesHalted_iff, Bool.not_eq_true] at hi
  · cases hd : decode w with
    | ok i => exact absurd hd (hn i)
    | error e => exact (step_of_decode_error hs hd).trans (if_neg hh)

/-- Settles O47: a halted command but CLR, and an illegal word, only answer, and CLR has one word. -/
theorem haltedStateIsQuiescent : Obligations.HaltedStateIsQuiescent := by
  intro s t hh ht
  match hs : s.pending with
  | [] =>
    rw [step_of_nothing_pending hs] at ht
    cases ht
    exact .inl rfl
  | .reset :: rest => exact .inr (.inr ⟨rest, rfl⟩)
  | .command w :: rest =>
    cases hd : decode w with
    | error e =>
      rw [step_of_decode_error hs hd, if_neg hh] at ht
      cases ht
      exact .inl rfl
    | ok i =>
      obtain ⟨hw, -⟩ := decode_eq_ok_iff_encode_eq.mp hd
      rw [step_of_decode_ok hs hd, exec_eq] at ht
      cases ht
      by_cases hc : i = .clr
      · exact .inr (.inl ⟨rest, by rw [← hw, hc]; rfl⟩)
      · rw [outcome_frame_of_halted (s := s.withPending rest) hh hc]
        exact .inl rfl

/-- Settles O49: by `outcome_halted_withMem` for a command; no other move reads the arrays in any state. -/
theorem haltedBlockHidesTheArrays : Obligations.HaltedBlockHidesTheArrays := by
  intro s t t' mem hh ht ht'
  suffices hsame : t' = { t with mem := t'.mem } from ⟨by rw [hsame], hsame⟩
  match hs : s.pending with
  | [] =>
    have hs' : ({ s with mem := mem } : State).pending = [] := hs
    cases (step_of_nothing_pending hs).symm.trans ht
    cases (step_of_nothing_pending hs').symm.trans ht'
    rfl
  | .reset :: rest =>
    have hs' : ({ s with mem := mem } : State).pending = .reset :: rest := hs
    cases (step_of_reset hs).symm.trans ht
    cases (step_of_reset hs').symm.trans ht'
    rfl
  | .command w :: rest =>
    have hs' : ({ s with mem := mem } : State).pending = .command w :: rest := hs
    cases hd : decode w with
    | error e =>
      cases ((step_of_decode_error hs hd).trans (if_neg hh)).symm.trans ht
      cases ((step_of_decode_error hs' hd).trans (if_neg hh)).symm.trans ht'
      rfl
    | ok i =>
      cases ((step_of_decode_ok hs hd).trans (exec_eq i _)).symm.trans ht
      cases ((step_of_decode_ok hs' hd).trans (exec_eq i _)).symm.trans ht'
      exact outcome_halted_withMem (s := s.withPending rest) hh i mem

/-! ## The interrupt line (60_exceptions R193) -/

theorem irq_eq_true_iff (s : State) : s.irq = true ↔ s.ie = true ∧ s.err ≠ 0x00#8 := by
  rw [State.irq, Bool.and_eq_true, State.halted_eq_true]

theorem irq_of_running {s : State} (hr : s.err = 0x00#8) : s.irq = false := by
  rw [State.irq, (State.halted_eq_false s).mpr hr, Bool.and_false]

theorem irq_of_halted {s : State} (hh : s.err ≠ 0x00#8) : s.irq = s.ie := by
  rw [State.irq, (State.halted_eq_true s).mpr hh, Bool.and_true]

/-- Settles O55: a fault leaves the block halted with IE kept, and CLR and reset leave it running. -/
theorem irqIsIeAndFault : Obligations.IrqIsIeAndFault := by
  refine ⟨irq_eq_true_iff, fun i s t _ ht hh => ?_, fun s t ht => ?_, fun s t rest hs ht => ?_⟩
  · rw [exec_eq] at ht
    cases ht
    rw [irq_of_halted hh, outcome_frame_of_err hh]
  · rw [exec_clr] at ht
    cases ht
    exact irq_of_running rfl
  · rw [step_of_reset hs] at ht
    cases ht
    exact irq_of_running rfl

end Sys2Proof.Machine

namespace Sys2Proof.Machine

/-! # Reset pulses and runs (70_reset R210 to R212, R218, R226)

A reset pulse is the one move that clears IE in the halted state. What a move does, and the response it gets, does not
depend on the moves after it, so a run is the fold of its moves over the state. -/

/-! ## Reset pulses (70_reset R210, R212) -/

/-- Settles O11: the pulse copies both ports. -/
theorem resetPulseKeepsThePorts : Obligations.ResetPulseKeepsThePorts := fun _ _ hs =>
  ⟨_, step_of_reset hs, rfl, rfl⟩

/-- In the halted state CSRW is refused and CLR keeps IE, which leaves the reset pulse. -/
theorem step_ie_of_halted {s t : State} (hh : s.err ≠ 0x00#8) (ht : step s = .next t) :
    t.ie = s.ie ∨ ∃ rest, s.pending = .reset :: rest := by
  rcases haltedStateIsQuiescent s t hh ht with h | ⟨rest, hs⟩ | hreset
  · exact .inl (by rw [h])
  · have hd : decode 0x01000000#32 = .ok .clr := decodeOfEncodeIsTheCommand .clr rfl
    rw [step_of_decode_ok hs hd, exec_clr] at ht
    cases ht
    exact .inl rfl
  · exact .inr hreset

/-- Settles O10: any other move of a halted block keeps IE, by `step_ie_of_halted`. -/
theorem resetPulseRestoresTheResetState : Obligations.ResetPulseRestoresTheResetState := by
  refine ⟨fun s rest hs => ⟨_, step_of_reset hs, rfl⟩, fun s t hh hie ht => ⟨fun hf => ?_, ?_⟩⟩
  · exact (step_ie_of_halted hh ht).resolve_left (by simp [hie, hf])
  · rintro ⟨rest, hs⟩
    cases (step_of_reset hs).symm.trans ht
    rfl

/-! ## A command does not see the later moves -/

section
variable (i : Instr) (s : State) (moves : List HostMove)

theorem faultOf_withPending : faultOf i (s.withPending moves) = faultOf i s := by
  cases i <;> rfl

theorem responseData_withPending : responseData i (s.withPending moves) = responseData i s := by
  cases i <;> rfl

theorem effect_withPending : effect i (s.withPending moves) = (effect i s).withPending moves := by
  cases i with
  | csrw => simp only [effect]; split <;> rfl
  | st => simp only [effect, memWrite]; split <;> rfl
  | _ => rfl

theorem outcome_withPending : outcome i (s.withPending moves) = (outcome i s).withPending moves := by
  rcases outcome_cases i s with ⟨hh, hi, ho⟩ | ⟨c, hi, lo, hr, hf, ho⟩ | ⟨hx, hf, ho⟩ <;> rw [ho]
  · exact outcome_refused (s := s.withPending moves) hh hi
  · exact outcome_fault (s := s.withPending moves) hr ((faultOf_withPending i s moves).trans hf)
  · rw [outcome_completes (s := s.withPending moves) hx ((faultOf_withPending i s moves).trans hf), completed,
      effect_withPending, responseData_withPending]
    rfl

end

/-! ## The state after a move -/

/-- The state one move of the host leaves, the moves after it set aside. -/
def afterMove (s : State) : HostMove → State
  | .reset => pulseReset s
  | .command w =>
    match decode w with
    | .ok i => outcome i s
    | .error _ => if s.err = 0x00#8 then s.faulted 0x01#8 w 0x0000#16 else s.refusedCommand

theorem afterMove_of_decode_ok {w : Word} {i : Instr} (hd : decode w = .ok i) (s : State) :
    afterMove s (.command w) = outcome i s := by
  simp only [afterMove, hd]

theorem afterMove_of_decode_error {w : Word} {e : Illegal} (hd : decode w = .error e) (s : State) :
    afterMove s (.command w) = if s.err = 0x00#8 then s.faulted 0x01#8 w 0x0000#16 else s.refusedCommand := by
  simp only [afterMove, hd]

/-- A step makes the first of the pending moves, and the others stay pending. -/
theorem step_withPending_cons (s : State) (move : HostMove) (rest : List HostMove) :
    step (s.withPending (move :: rest)) = .next ((afterMove s move).withPending rest) := by
  have hs : (s.withPending (move :: rest)).pending = move :: rest := rfl
  cases move with
  | reset => exact step_of_reset hs
  | command w =>
    cases hd : decode w with
    | ok i =>
      rw [step_of_decode_ok hs hd, exec_eq, afterMove_of_decode_ok hd, ← outcome_withPending]
      rfl
    | error e =>
      rw [step_of_decode_error hs hd, afterMove_of_decode_error hd, State.withPending_err]
      split <;> rfl

theorem afterMove_command_responses (s : State) (w : Word) :
    ∃ r, (afterMove s (.command w)).responses = s.responses ++ [r] := by
  cases hd : decode w with
  | ok i =>
    obtain ⟨d, hr, -⟩ := outcome_responses i s
    exact ⟨_, (afterMove_of_decode_ok hd s).symm ▸ hr⟩
  | error e =>
    rw [afterMove_of_decode_error hd]
    split <;> exact ⟨_, rfl⟩

/-! ## Runs (70_reset R226) -/

theorem run_succ_of_step {M : Host.Core} {s t : M.State} (h : M.step s = .next t) (k : Nat) :
    M.run (k + 1) s = M.run k t := by
  rw [Host.Core.run, h]

/-- A run makes its moves one after another, and none is left. -/
theorem runMoves_eq (moves : List HostMove) (s : State) :
    runMoves moves s = .next ((moves.foldl afterMove s).withPending []) := by
  induction moves generalizing s with
  | nil => rfl
  | cons move rest ih => exact (run_succ_of_step (step_withPending_cons s move rest) rest.length).trans (ih _)

theorem foldl_afterMove_responses (moves : List HostMove) (s : State) :
    ∃ rs, (moves.foldl afterMove s).responses = s.responses ++ rs ∧ rs.length = moves.countP isCommand := by
  induction moves generalizing s with
  | nil => exact ⟨[], (List.append_nil _).symm, rfl⟩
  | cons move rest ih =>
    obtain ⟨rs, hrs, hlen⟩ := ih (afterMove s move)
    cases move with
    | reset => exact ⟨rs, hrs, hlen⟩
    | command w =>
      obtain ⟨r, hr⟩ := afterMove_command_responses s w
      refine ⟨r :: rs, ?_, ?_⟩
      · rw [List.foldl_cons, hrs, hr, List.append_assoc, List.singleton_append]
      · rw [List.length_cons, hlen, List.countP_cons_of_pos rfl]

/-- Settles O13: the new responses are those of the moves before the command, its own, and those of the moves after. -/
theorem runAnswersEveryCommandInOrder : Obligations.RunAnswersEveryCommandInOrder := by
  intro moves s
  obtain ⟨rs, hrs, hlen⟩ := foldl_afterMove_responses moves s
  refine ⟨_, rs, runMoves_eq moves s, rfl, hrs, hlen, ?_⟩
  rintro before after w rfl
  obtain ⟨earlier, hearlier, hcount⟩ := foldl_afterMove_responses before s
  obtain ⟨r, hr⟩ := afterMove_command_responses (before.foldl afterMove s) w
  obtain ⟨later, hlater, -⟩ := foldl_afterMove_responses after (afterMove (before.foldl afterMove s) (.command w))
  refine ⟨_, _, r, runMoves_eq before s, step_withPending_cons (before.foldl afterMove s) (.command w) [], hr, ?_⟩
  have hsplit : rs = earlier ++ r :: later := by
    rw [List.foldl_append, List.foldl_cons, hlater, hr, hearlier] at hrs
    simpa using hrs.symm
  rw [hsplit, ← hcount, List.getElem?_append_right le_rfl, Nat.sub_self, List.getElem?_cons_zero]

end Sys2Proof.Machine
